-- ==== Sys2Proof/Word.lean ====
section
/-! DEFINITION. The words of the engine: bytes, lanes and the two words that select an operation. -/

namespace Sys2Proof

/-- One message, buffer or state byte, an unsigned number 0..255 (R10, R72). -/
abbrev Byte := BitVec 8

/-- One lane of the permutation state: an unsigned 64-bit word (R10, R20). -/
abbrev Lane := BitVec 64

/-- The command word `cw[9:0]`: `cmd_op` above `cmd_data` (R70). -/
abbrev CmdWord := BitVec 10

/-- The sequencer word `sw[6:0]`: `fsm` above `rnd` (R75). -/
abbrev SeqWord := BitVec 7

end Sys2Proof
end

