-- ==== Sys2Proof/Config.lean ====
section
/-! DEFINITION. The fixed parameters of R7. Nothing is configurable (R3), and no value is left free
(92_eei_decisions.md: no row is open). The two constant tables (R92, R93) stand in Machine/Tables.lean. -/

namespace Sys2Proof.Config

/-- `NLANES`: lanes of the 5 x 5 matrix. -/
abbrev lanes : Nat := 25

/-- `W`: bits of a lane. -/
abbrev laneBits : Nat := 64

/-- `B`: bits of the state. -/
abbrev stateBits : Nat := 1600

/-- `NROUNDS`: rounds of one permutation. -/
abbrev rounds : Nat := 24

/-- `RATE_BITS`. -/
abbrev rateBits : Nat := 1088

/-- `CAP_BITS`. -/
abbrev capacityBits : Nat := 512

/-- `RATE`: bytes of one block. -/
abbrev rate : Nat := 136

/-- `DIGEST_LEN`: bytes of the digest. -/
abbrev digestLen : Nat := 32

/-- `DOMAIN`: the first padding byte, the original Keccak's and not SHA3's `0x06` (R2). -/
def domain : Byte := 0x01

/-- `PADEND`: the bit OR-ed into the last byte of the padded block. -/
def padEnd : Byte := 0x80

end Sys2Proof.Config
end

