-- ==== Sys2Proof/Syntax.lean ====
section
/-! DEFINITION. The operations of the engine: one constructor per row of spec/opcode_table.json. -/

namespace Sys2Proof

/-- The four commands of the port (R71) and the two sequencer-selected operations (R75). -/
inductive Instr where
  /-- NOP (R111). -/
  | nop
  /-- UPDATE with the message byte `b` (R112). -/
  | update (b : Byte)
  /-- FINALIZE (R113). -/
  | finalize
  /-- RESET (R114). -/
  | reset
  /-- PERM.A: the round step with index `rnd`, for a block that UPDATE filled (R117). -/
  | permA (rnd : BitVec 5)
  /-- PERM.F: the round step with index `rnd`, for the padded block of FINALIZE (R119). -/
  | permF (rnd : BitVec 5)
  deriving DecidableEq, Repr

end Sys2Proof
end

