-- ==== Sys2Proof/WellFormed.lean ====
section
/-! DEFINITION. Which terms of Instr stand for an operation of the engine. -/

namespace Sys2Proof

/-- The one bound the syntax does not carry: a round index is 0..23 (R75, R30, U7). -/
def Instr.wellFormed : Instr → Bool
  | .nop => true
  | .update _ => true
  | .finalize => true
  | .reset => true
  | .permA rnd => decide (rnd.toNat ≤ 23)
  | .permF rnd => decide (rnd.toNat ≤ 23)

/-- `Instr.wellFormed` as a proposition. -/
abbrev WellFormed (i : Instr) : Prop := i.wellFormed = true

end Sys2Proof
end

