-- ==== Sys2Proof/Decode.lean ====
section
/-! DEFINITION. Decoding and encoding of the command word (R70 to R74, R81) and of the sequencer word (R75). -/

namespace Sys2Proof

/-- Why a word selects no operation. -/
inductive DecodeError where
  /-- `fsm` = 0: the sequencer selects no round step, the command decoder runs (R75). -/
  | sequencerIdle
  /-- `fsm` = 3: unreachable (R75, U7). -/
  | fsmUnreachable
  /-- `rnd` in 24..31 with `fsm` = 1 or 2: unreachable (R75, U7). -/
  | roundUnreachable
  /-- The number has a bit above the word's top bit (log 6). -/
  | bitsAboveWord
  deriving DecidableEq, Repr

/-- A word of one of the two formats. -/
inductive PortWord where
  /-- format CMD (R70). -/
  | cmd (cw : CmdWord)
  /-- format SEQ (R75). -/
  | seq (sw : SeqWord)
  deriving DecidableEq, Repr

/-- Field `op`, bits 9:8 (R70). -/
def cmdOp (cw : CmdWord) : BitVec 2 := cw.extractLsb' 8 2

/-- Field `data`, bits 7:0, used as it stands (R70, R72). -/
def cmdData (cw : CmdWord) : Byte := cw.extractLsb' 0 8

/-- The word the ports carry, `{cmd_op, cmd_data}` (R70). -/
def cmdWordOf (op : BitVec 2) (data : Byte) : CmdWord := op ++ data

/-- Bits 6:5 of the sequencer word (R75). -/
def seqFsm (sw : SeqWord) : BitVec 2 := sw.extractLsb' 5 2

/-- Bits 4:0 of the sequencer word (R75). -/
def seqRnd (sw : SeqWord) : BitVec 5 := sw.extractLsb' 0 5

/-- The word `{fsm, rnd}` (R75). -/
def seqWordOf (fsm : BitVec 2) (rnd : BitVec 5) : SeqWord := fsm ++ rnd

/-- The opcode map of R71, row by row as `cw & mask = match`: total on all 1024 words. `data` counts in
UPDATE only (R74). -/
def decodeCmd (cw : CmdWord) : Instr :=
  if cw &&& 0x300#10 = 0x000#10 then .nop
  else if cw &&& 0x300#10 = 0x100#10 then .update (cmdData cw)
  else if cw &&& 0x300#10 = 0x200#10 then .finalize
  else .reset

/-- The sequencer map of R75; what it calls unreachable is rejected by name. -/
def decodeSeq (sw : SeqWord) : Except DecodeError Instr :=
  if sw &&& 0x60#7 = 0x20#7 then
    if (seqRnd sw).toNat ≤ 23 then .ok (.permA (seqRnd sw)) else .error .roundUnreachable
  else if sw &&& 0x60#7 = 0x40#7 then
    if (seqRnd sw).toNat ≤ 23 then .ok (.permF (seqRnd sw)) else .error .roundUnreachable
  else if sw &&& 0x60#7 = 0x00#7 then .error .sequencerIdle
  else .error .fsmUnreachable

/-- Decoding of a word of either format. -/
def decode : PortWord → Except DecodeError Instr
  | .cmd cw => .ok (decodeCmd cw)
  | .seq sw => decodeSeq sw

/-- The word a number of `nbits` bits stands for: the 7-bit format fits one byte, the 10-bit format takes
two (R70, R75; log 6). A number with a bit above its format's top bit is no word. -/
def wordOfNumber (nbits w : Nat) : Except DecodeError PortWord :=
  if nbits ≤ 8 then
    if w < 128 then .ok (.seq (BitVec.ofNat 7 w)) else .error .bitsAboveWord
  else
    if w < 1024 then .ok (.cmd (BitVec.ofNat 10 w)) else .error .bitsAboveWord

/-- What the decoder reads from a row's bits numbered as spec/opcode_table.json numbers them. -/
def decodeTableWord (nbits w : Nat) : Option Instr :=
  match wordOfNumber nbits w with
  | .error _ => none
  | .ok p =>
    match decode p with
    | .ok i => some i
    | .error _ => none

/-- The word of an instruction: `data` = 0 for NOP, FINALIZE, RESET, and `0x100 + b` for UPDATE (R81);
`{fsm, rnd}` for the round steps (R75). -/
def encode : Instr → PortWord
  | .nop => .cmd (cmdWordOf 0b00#2 0x00#8)
  | .update b => .cmd (cmdWordOf 0b01#2 b)
  | .finalize => .cmd (cmdWordOf 0b10#2 0x00#8)
  | .reset => .cmd (cmdWordOf 0b11#2 0x00#8)
  | .permA rnd => .seq (seqWordOf 0b01#2 rnd)
  | .permF rnd => .seq (seqWordOf 0b10#2 rnd)

end Sys2Proof
end

