-- ==== Sys2Proof/Machine/State.lean ====
section
/-! DEFINITION. The state of one engine (10_state.md), the reasons a step can stop, and the state after reset. -/

namespace Sys2Proof.Machine

/-- The 25 lanes by linear index, `L[i]` with `i = x + 5*y` (R20, R21). The views `A[x,y]` and `S[k]`
of the same 1600 bits are in Machine/Lanes.lean (R12). -/
abbrev Lanes := Vector Lane 25

/-- A block: 136 message-or-padding bytes (R18). -/
abbrev Block := Vector Byte 136

/-- The lifecycle phase (R31). -/
inductive Phase where
  | fresh
  | absorbing
  | spent
  deriving DecidableEq, Repr

/-- The sequencer register `fsm` (R29). -/
inductive Fsm where
  | idle
  | permA
  | permF
  deriving DecidableEq, Repr

/-- The cause register `ecause` (R32, R141). -/
inductive ECause where
  | none
  | updateInSpent
  | finalizeInSpent
  deriving DecidableEq, Repr

/-- The partial-block buffer: `BUF[0..blen-1]` in the order of acceptance, at most 135 bytes between steps;
`blen` is the length (R24, R25). -/
@[ext]
structure Buffer where
  bytes : List Byte
  bound : bytes.length ≤ 135
  deriving DecidableEq, Repr

/-- The input ports of one step (R35). -/
structure PortInput where
  rst : Bool
  cmdValid : Bool
  cmdOp : BitVec 2
  cmdData : Byte
  deriving DecidableEq, Repr

/-- The state of one engine and the inputs its host will present (R15, R35). -/
@[ext]
structure State where
  /-- The lane matrix (R20). -/
  lanes : Lanes
  /-- The partial-block buffer with its length `blen` (R24, R25). -/
  buf : Buffer
  /-- The lifecycle phase (R31). -/
  phase : Phase
  /-- Which permutation runs, if any (R29). -/
  fsm : Fsm
  /-- The index of the next round to apply (R30). -/
  rnd : Fin 24
  /-- The sticky fault mark (R32). -/
  err : Bool
  /-- The cause of the first fault (R32). -/
  ecause : ECause
  /-- The model's own field: what the host puts on the input ports in each coming step, next step first
  (R35; log 1). -/
  inputs : List PortInput
  deriving DecidableEq, Repr

/-- Why the machine stops. -/
inductive Fault where
  /-- Raised by PERM.A and PERM.F with a round index 24..31, and by a step whose sequencer word selects no row:
  encodings for which the spec gives no rule (R75, U7; log 4). Safe: no state of the model leads a step here. -/
  | stuckSequencer
  deriving DecidableEq, Repr

/-- Why the model gives no meaning. -/
inductive Refusal where
  /-- Raised by an arm of exec whose instruction has no meaning yet; no arm raises it. Safe. -/
  | notModelled (mnemonic : String)
  deriving DecidableEq, Repr

/-- What a meaning answers. -/
abbrev Outcome := Host.Outcome State Fault Refusal

/-- The buffer with `blen` = 0 (R26). -/
def Buffer.empty : Buffer := ⟨[], by decide⟩

/-- The state right after a reset step (R41); the host presents nothing (log 1). -/
def State.reset : State where
  lanes := Vector.replicate 25 0
  buf := Buffer.empty
  phase := .fresh
  fsm := .idle
  rnd := 0
  err := false
  ecause := .none
  inputs := []

end Sys2Proof.Machine
end

