-- ==== Sys2Proof/Machine/Lanes.lean ====
section
/-! DEFINITION. The views of the 1600 state bits (R12, R51) and the operators on lanes (R11). -/

namespace Sys2Proof.Machine

/-- `rotl64(a, n)` of R11 for `0 <= n <= 63`. -/
def rotl64 (a : Lane) (n : Fin 64) : Lane :=
  if n.val = 0 then a else (a <<< n.val) ||| (a >>> (64 - n.val))

/-- `A[x,y]`, the lane `L[x + 5*y]` (R12, R21). Indices of `Fin 5` add modulo 5 (R11). -/
def lane (A : Lanes) (x y : Fin 5) : Lane := A[x.val + 5 * y.val]'(by omega)

/-- The 25-lane value whose lane (x,y) is `f x y`: all lanes at once (R13). -/
def ofXY (f : Fin 5 → Fin 5 → Lane) : Lanes :=
  Vector.ofFn fun i : Fin 25 => f ⟨i.val % 5, by omega⟩ ⟨i.val / 5, by omega⟩

/-- All lanes zero. -/
def zeroLanes : Lanes := Vector.replicate 25 0

/-- `S[k]`: byte `k mod 8` of lane `k / 8`, least significant byte first (R51). -/
def stateByte (A : Lanes) (k : Fin 200) : Byte :=
  (A[k.val / 8]'(by omega)).extractLsb' (8 * (k.val % 8)) 8

/-- `S[k] <- v` seen through the lane that holds it (R12, R51). -/
def setStateByte (A : Lanes) (k : Fin 200) (v : Byte) : Lanes :=
  let sh := 8 * (k.val % 8)
  let old := A[k.val / 8]'(by omega)
  A.set (k.val / 8) ((old &&& ~~~(0xFF#64 <<< sh)) ||| (v.setWidth 64 <<< sh)) (by omega)

/-- The number whose bytes are listed, first byte least significant (R12: little-endian). -/
def leNumber : List Byte → Nat
  | [] => 0
  | b :: bs => b.toNat + 256 * leNumber bs

/-- `MemRead(addr, n)` (R12): the bytes `S[addr] .. S[addr+n-1]` as a little-endian number; none outside
`S[0..199]`. -/
def memRead (A : Lanes) (addr n : Nat) : Option Nat :=
  if h : addr + n ≤ 200 then
    some (leNumber ((List.finRange n).map fun j => stateByte A ⟨addr + j.val, by omega⟩))
  else none

/-- `MemWrite(addr, n, v)` (R12): the n low bytes of v to `S[addr] ..`, little-endian; none outside
`S[0..199]`. -/
def memWrite (A : Lanes) (addr n v : Nat) : Option Lanes :=
  if h : addr + n ≤ 200 then
    some ((List.finRange n).foldl
      (fun B j => setStateByte B ⟨addr + j.val, by omega⟩ (BitVec.ofNat 8 (v / 256 ^ j.val))) A)
  else none

end Sys2Proof.Machine
end

