-- ==== Sys2Proof/Machine/Operands.lean ====
section
/-! DEFINITION. The operands of the operations: the words on the ports and in the sequencer, the buffer, and the
blocks built from it. -/

namespace Sys2Proof.Machine

/-- `fsm` as the sequencer word holds it (R29). -/
def Fsm.bits : Fsm → BitVec 2
  | .idle => 0
  | .permA => 1
  | .permF => 2

/-- The value of `fsm` that two bits name; 3 names none (R29, U7). -/
def Fsm.ofBits (b : BitVec 2) : Option Fsm :=
  if b = 0 then some .idle else if b = 1 then some .permA else if b = 2 then some .permF else none

/-- `rnd` as its five bits (R30). -/
def roundBits (r : Fin 24) : BitVec 5 := BitVec.ofNat 5 r.val

/-- `sw = {fsm, rnd}` (R75). -/
def seqWord (fsm : Fsm) (rnd : Fin 24) : SeqWord := seqWordOf fsm.bits (roundBits rnd)

/-- `cw = {cmd_op, cmd_data}` (R70). -/
def PortInput.word (p : PortInput) : CmdWord := cmdWordOf p.cmdOp p.cmdData

/-- A step in which the host presents nothing. -/
def PortInput.idle : PortInput := ⟨false, false, 0, 0⟩

/-- A step in which the host presents the command word `cw`. -/
def PortInput.present (cw : CmdWord) : PortInput := ⟨false, true, Sys2Proof.cmdOp cw, Sys2Proof.cmdData cw⟩

/-- A step with `rst` = 1 and no command. -/
def PortInput.hardReset : PortInput := ⟨true, false, 0, 0⟩

/-- `blen` (R25). -/
def Buffer.blen (b : Buffer) : Nat := b.bytes.length

/-- `BUF[blen] <- b; blen <- blen + 1`, for `blen < 135` (R112). -/
def Buffer.push (buf : Buffer) (b : Byte) (h : buf.blen < 135) : Buffer :=
  ⟨buf.bytes ++ [b], by simp only [Buffer.blen] at h; simp only [List.length_append, List.length_singleton]; omega⟩

/-- The block of the filling UPDATE: `block[0..134] = BUF[0..134]`, `block[135] = b` (R112, `blen` = 135). -/
def fillBlock (buf : Buffer) (b : Byte) : Block :=
  Vector.ofFn fun j : Fin 136 => buf.bytes.getD j.val b

/-- Byte j of PAD before the last line of R115: the message byte, `0x01` at n, `0x00` above. -/
def padByte (m : List Byte) (j : Nat) : Byte :=
  if j < m.length then m.getD j 0 else if j = m.length then Config.domain else 0

/-- PAD (R115). -/
def pad (buf : Buffer) : Block :=
  Vector.ofFn fun j : Fin 136 =>
    if j.val = 135 then padByte buf.bytes j.val ||| Config.padEnd else padByte buf.bytes j.val

/-- `block[8i] | block[8i+1] << 8 | ... | block[8i+7] << 56`, for a lane of the rate (R116). -/
def blockLane (block : Block) (i : Nat) (h : i < 17) : Lane :=
  block[8 * i + 7] ++ block[8 * i + 6] ++ block[8 * i + 5] ++ block[8 * i + 4] ++
  block[8 * i + 3] ++ block[8 * i + 2] ++ block[8 * i + 1] ++ block[8 * i]

end Sys2Proof.Machine
end

