-- ==== Sys2Proof/Machine/Tables.lean ====
section
/-! DEFINITION. The two read-only tables (R54, D23) as printed in R92 and R93, and the recurrences of R102 and
R103 from which they come. They stand here and not in Config.lean so that a repair can reach them. -/

namespace Sys2Proof.Machine

/-- Round constants as R92 prints them. -/
def rcTable : Vector Lane 24 :=
  #v[0x0000000000000001#64, 0x0000000000008082#64, 0x800000000000808A#64, 0x8000000080008000#64,
     0x000000000000808B#64, 0x0000000080000001#64, 0x8000000080008081#64, 0x8000000000008009#64,
     0x000000000000008A#64, 0x0000000000000088#64, 0x0000000080008009#64, 0x000000008000000A#64,
     0x000000008000808B#64, 0x800000000000008B#64, 0x8000000000008089#64, 0x8000000000008003#64,
     0x8000000000008002#64, 0x8000000000000080#64, 0x000000000000800A#64, 0x800000008000000A#64,
     0x8000000080008081#64, 0x8000000000008080#64, 0x0000000080000001#64, 0x8000000080008008#64]

/-- `RC[ir]` (R92). -/
def RC (ir : Fin 24) : Lane := rcTable[ir]

/-- Rotation offsets by linear lane index `x + 5*y`, as R93 prints them: one row of the matrix a line. -/
def rotTable : Vector (Fin 64) 25 :=
  #v[ 0,  1, 62, 28, 27,
     36, 44,  6, 55, 20,
      3, 10, 43, 25, 39,
     41, 45, 15, 21,  8,
     18,  2, 61, 56, 14]

/-- `ROT[x,y]` (R93). -/
def ROT (x y : Fin 5) : Fin 64 := rotTable[x.val + 5 * y.val]'(by omega)

/-! ## The recurrences -/

/-- The shift register of R102 after one output bit: shift left into 9 bits and XOR with `0x171` if bit 8 is 1. -/
def lfsrNext (r : BitVec 9) : BitVec 9 :=
  let shifted := r <<< 1
  if shifted.getLsbD 8 then shifted ^^^ 0x171#9 else shifted

/-- The shift register before output bit `n` (R102: initial value `0x01`). -/
def lfsr : Nat → BitVec 9
  | 0 => 0x01#9
  | n + 1 => lfsrNext (lfsr n)

/-- One round constant by R102: output bits `7*ir .. 7*ir+6` at the bit positions `2^j - 1`. -/
def rcByRecurrence (ir : Nat) : Lane :=
  (List.range 7).foldl
    (fun c j => if (lfsr (7 * ir + j)).getLsbD 0 then c ||| (1#64 <<< (2 ^ j - 1)) else c) 0#64

/-- The position the walk of R103 visits at time `t`, from (1,0). -/
def rotWalk : Nat → Fin 5 × Fin 5
  | 0 => (1, 0)
  | t + 1 => ((rotWalk t).2, 2 * (rotWalk t).1 + 3 * (rotWalk t).2)

/-- The offset R103 writes at time `t`. -/
def rotByRecurrence (t : Nat) : Nat := ((t + 1) * (t + 2) / 2) % 64

end Sys2Proof.Machine
end

