-- ==== Sys2Proof/Machine/Permutation.lean ====
section
/-! DEFINITION. The permutation core (40_permutation.md): the five step mappings, the round, the permutation.
Each is a pure function of the input value; none reads a lane it has written (R13). -/

namespace Sys2Proof.Machine

/-- `C[x]`: the parity of column x (R94). -/
def columnParity (A : Lanes) (x : Fin 5) : Lane :=
  lane A x 0 ^^^ lane A x 1 ^^^ lane A x 2 ^^^ lane A x 3 ^^^ lane A x 4

/-- `D[x]` (R94). -/
def thetaDiff (A : Lanes) (x : Fin 5) : Lane :=
  columnParity A (x - 1) ^^^ rotl64 (columnParity A (x + 1)) 1

/-- THETA (R94). -/
def theta (A : Lanes) : Lanes := ofXY fun x y => lane A x y ^^^ thetaDiff A x

/-- RHO (R95). -/
def rho (A : Lanes) : Lanes := ofXY fun x y => rotl64 (lane A x y) (ROT x y)

/-- PI (R96). The rule says where the lane at (x,y) goes, `(y, 2x+3y)`; read from the destination (x,y), its
source is `(x+3y, x)`. -/
def pi (A : Lanes) : Lanes := ofXY fun x y => lane A (x + 3 * y) x

/-- CHI (R97). -/
def chi (A : Lanes) : Lanes :=
  ofXY fun x y => lane A x y ^^^ (~~~(lane A (x + 1) y) &&& lane A (x + 2) y)

/-- IOTA (R98). -/
def iota (A : Lanes) (ir : Fin 24) : Lanes := A.set 0 (A[0] ^^^ RC ir)

/-- ROUND (R99). -/
def keccakRound (A : Lanes) (ir : Fin 24) : Lanes := iota (chi (pi (rho (theta A)))) ir

/-- PERMUTE (R100): rounds 0, 1, ..., 23 in this order. -/
def permute (A : Lanes) : Lanes := (List.finRange 24).foldl keccakRound A

/-! ## RHO and PI as one table (R101) -/

/-- R101, line "source i": the lane that ends in destination j. -/
def rhoPiSource : Vector (Fin 25) 25 :=
  #v[0, 6, 12, 18, 24, 3, 9, 10, 16, 22, 1, 7, 13, 19, 20, 4, 5, 11, 17, 23, 2, 8, 14, 15, 21]

/-- R101, line "rotate by". -/
def rhoPiRotate : Vector (Fin 64) 25 :=
  #v[0, 44, 43, 21, 14, 28, 20, 3, 45, 61, 1, 6, 25, 8, 18, 27, 36, 10, 15, 56, 62, 55, 39, 41, 2]

/-- RHO followed by PI by the table of R101. -/
def rhoPiFused (A : Lanes) : Lanes :=
  Vector.ofFn fun j : Fin 25 => rotl64 A[rhoPiSource[j]] rhoPiRotate[j]

end Sys2Proof.Machine
end

