-- ==== Sys2Proof/Machine/Ops.lean ====
section
/-! DEFINITION. The named operations that the meanings share: register writes, the block XOR, starting and running
a permutation, clearing, and taking the protocol fault. -/

namespace Sys2Proof.Machine

/-! ## Register writes -/

/-- Writes the lanes. -/
def State.setLanes (s : State) (A : Lanes) : State := { s with lanes := A }

/-- Writes the buffer and with it `blen`. -/
def State.setBuf (s : State) (b : Buffer) : State := { s with buf := b }

/-- Writes `phase`. -/
def State.setPhase (s : State) (p : Phase) : State := { s with phase := p }

/-- Writes `fsm` and `rnd`. -/
def State.setSequencer (s : State) (f : Fsm) (r : Fin 24) : State := { s with fsm := f, rnd := r }

/-- Writes `err` and `ecause`. -/
def State.setFault (s : State) (e : Bool) (c : ECause) : State := { s with err := e, ecause := c }

/-- Replaces the inputs the host will present. -/
def State.setInputs (s : State) (l : List PortInput) : State := { s with inputs := l }

/-! ## The sponge -/

/-- ABSORB_BLOCK on the lanes: `L[i] ^= block lane i` for `i` in 0..16, `L[17..24]` unchanged (R116). -/
def absorbBlock (A : Lanes) (block : Block) : Lanes :=
  Vector.ofFn fun i : Fin 25 => if h : i.val < 17 then A[i] ^^^ blockLane block i.val h else A[i]

/-- The tail that UPDATE (buffer full) and FINALIZE share: absorb the block, `blen <- 0`, `fsm <- f`, `rnd <- 0`
(R112, R113). -/
def absorbAndStart (block : Block) (f : Fsm) (s : State) : State :=
  ((s.setLanes (absorbBlock s.lanes block)).setBuf Buffer.empty).setSequencer f 0

/-- SQUEEZE: digest byte i is `S[i]` for i in 0..31 (R118). -/
def squeeze (A : Lanes) : List Byte :=
  (List.finRange 32).map fun i => stateByte A ⟨i.val, by omega⟩

/-- The round step PERM.A and PERM.F share: `A <- ROUND(A, rnd)`; after round 23 `fsm <- IDLE`, `rnd <- 0`, before
it `rnd <- rnd + 1` (R117, R119). -/
def roundStep (r : Fin 24) (s : State) : State :=
  let s' := s.setLanes (keccakRound s.lanes r)
  if h : r.val = 23 then s'.setSequencer .idle 0
  else s'.setSequencer s.fsm ⟨r.val + 1, by omega⟩

/-- The register writes of R114 and R160, which are the same (R161). -/
def clearEngine (s : State) : State :=
  ((((s.setLanes zeroLanes).setBuf Buffer.empty).setPhase .fresh).setSequencer .idle 0).setFault false .none

/-! ## Taking the exception -/

/-- `raise ProtocolFault(c)` (R143): the first cause is recorded, nothing else changes, and the machine goes on.
There is no return instruction; only RESET and `rst` clear the mark (R144), by `clearEngine`. -/
def raiseProtocolFault (c : ECause) (s : State) : State :=
  if s.err then s else s.setFault true c

end Sys2Proof.Machine
end

