-- ==== Sys2Proof/Machine/Flags.lean ====
section
/-! DEFINITION. The status registers as software sees them and the output ports (R31, R32, R36). There are no
condition codes (R33). -/

namespace Sys2Proof.Machine

/-- `phase` as its two bits (R31). -/
def Phase.bits : Phase → BitVec 2
  | .fresh => 0
  | .absorbing => 1
  | .spent => 2

/-- `ecause` as its two bits (R32). -/
def ECause.bits : ECause → BitVec 2
  | .none => 0
  | .updateInSpent => 1
  | .finalizeInSpent => 2

/-- The output ports of one step (R36). -/
structure Outputs where
  cmdReady : Bool
  digestValid : Bool
  digest : BitVec 256
  phase : BitVec 2
  err : Bool
  ecause : BitVec 2
  deriving DecidableEq, Repr

/-- `cmd_ready` (R36). -/
def State.cmdReady (s : State) : Bool := decide (s.fsm = .idle)

/-- `digest_valid` (R36); a run of one message is over when it is 1 (R171). -/
def State.digestValid (s : State) : Bool := decide (s.phase = .spent)

/-- The 256-bit number whose byte i, bits `8i+7:8i`, is the i-th byte of the list (R36). -/
def digestOfBytes (l : List Byte) : BitVec 256 := BitVec.ofNat 256 (leNumber l)

/-- The `digest` port: SQUEEZE in SPENT, 256 zero bits otherwise (R36, R118). -/
def State.digest (s : State) : BitVec 256 :=
  if s.digestValid then digestOfBytes (squeeze s.lanes) else 0

/-- The output ports, functions of the state before the step (R36). -/
def State.outputs (s : State) : Outputs where
  cmdReady := s.cmdReady
  digestValid := s.digestValid
  digest := s.digest
  phase := s.phase.bits
  err := s.err
  ecause := s.ecause.bits

end Sys2Proof.Machine
end

