-- ==== Sys2Proof/Machine/Rounds.lean ====
section
/-! DEFINITION. The meanings of the two sequencer-selected operations (R117, R119). The operand is the `rnd` field of
the sequencer word, which is the register's value when a step selects the operation (R75). -/

namespace Sys2Proof.Machine

/-- PERM.A (R117). A round index 24..31 has no rule (U7; log 4). -/
def execPermA (rnd : BitVec 5) (s : State) : Outcome :=
  if h : rnd.toNat < 24 then .next (roundStep ⟨rnd.toNat, h⟩ s) else .fault .stuckSequencer

/-- PERM.F (R119): as PERM.A, and the last round writes `phase <- SPENT`. A round index 24..31 has no rule
(U7; log 4). -/
def execPermF (rnd : BitVec 5) (s : State) : Outcome :=
  if h : rnd.toNat < 24 then
    if rnd.toNat = 23 then .next ((roundStep ⟨rnd.toNat, h⟩ s).setPhase .spent)
    else .next (roundStep ⟨rnd.toNat, h⟩ s)
  else .fault .stuckSequencer

end Sys2Proof.Machine
end

