-- ==== Sys2Proof/Machine/Sponge.lean ====
section
/-! DEFINITION. The meanings of the four commands (41_sponge.md section 2). -/

namespace Sys2Proof.Machine

/-- NOP: no register is written (R111). -/
def execNop (s : State) : Outcome := .next s

/-- UPDATE (R112). The buffer holds at most 135 bytes, so the second branch is `blen` = 135. -/
def execUpdate (b : Byte) (s : State) : Outcome :=
  if s.phase = .spent then .next (raiseProtocolFault .updateInSpent s)
  else if h : s.buf.blen < 135 then .next ((s.setPhase .absorbing).setBuf (s.buf.push b h))
  else .next (absorbAndStart (fillBlock s.buf b) .permA (s.setPhase .absorbing))

/-- FINALIZE (R113). -/
def execFinalize (s : State) : Outcome :=
  if s.phase = .spent then .next (raiseProtocolFault .finalizeInSpent s)
  else .next (absorbAndStart (pad s.buf) .permF (s.setPhase .absorbing))

/-- RESET (R114). -/
def execReset (s : State) : Outcome := .next (clearEngine s)

end Sys2Proof.Machine
end

