-- ==== Sys2Proof/Machine/Dispatch.lean ====
section
/-! DEFINITION. Which meaning each operation has: one arm per constructor of Instr. -/

namespace Sys2Proof.Machine

def exec (i : Instr) (s : State) : Host.Outcome State Fault Refusal :=
  match i with
  | .nop => Sys2Proof.Machine.execNop s
  | .update b => Sys2Proof.Machine.execUpdate b s
  | .finalize => Sys2Proof.Machine.execFinalize s
  | .reset => Sys2Proof.Machine.execReset s
  | .permA rnd => Sys2Proof.Machine.execPermA rnd s
  | .permF rnd => Sys2Proof.Machine.execPermF rnd s

end Sys2Proof.Machine
end

