-- ==== Sys2Proof/Machine/Sequencer.lean ====
section
/-! DEFINITION. The step relation of R110: sampling the inputs, hard reset, and the selection of the operation. -/

namespace Sys2Proof.Machine

/-- The inputs sampled in the next step (R35). Where the trace has ended, the host presents nothing (log 1). -/
def State.sampled (s : State) : PortInput := s.inputs.headD PortInput.idle

/-- The state with this step's inputs consumed. -/
def State.afterSample (s : State) : State := s.setInputs s.inputs.tail

/-- Hard reset (R160). -/
def hardReset (s : State) : State := clearEngine s

/-- The operation a step with `rst` = 0 selects (R110): the sequencer word's when a permutation runs (R75), else
the presented command's (R71), else none. -/
def selected (p : PortInput) (s : State) : Except DecodeError (Option Instr) :=
  if s.fsm = .idle then
    if p.cmdValid then .ok (some (decodeCmd p.word)) else .ok none
  else
    match decodeSeq (seqWord s.fsm s.rnd) with
    | .ok i => .ok (some i)
    | .error e => .error e

/-- One step as a function of the inputs and the state (R110). -/
def engineStep (p : PortInput) (s : State) : Outcome :=
  if p.rst then .next (hardReset s)
  else
    match selected p s with
    | .ok (some i) => exec i s
    | .ok none => .next s
    | .error _ => .fault .stuckSequencer

/-- The state whose next step samples the command word `cw` with `rst` = 0 and is idle, so that it accepts it
(R37; log 2). -/
def State.presentWord (s : State) (cw : CmdWord) : State :=
  (s.setSequencer .idle s.rnd).setInputs (PortInput.present cw :: s.inputs.tail)

/-- The inputs with `rst` = 0 in the next step and everything else as it was. -/
def withoutReset : List PortInput → List PortInput
  | [] => []
  | p :: l => { p with rst := false } :: l

/-- The state whose sequencer holds the word `sw` and whose next step samples `rst` = 0 (R75; log 2). A word the
registers cannot hold leaves the state as it is (log 3). -/
def State.placeSeqWord (s : State) (sw : SeqWord) : State :=
  match Fsm.ofBits (seqFsm sw) with
  | none => s
  | some f =>
    if h : (seqRnd sw).toNat < 24 then
      (s.setSequencer f ⟨(seqRnd sw).toNat, h⟩).setInputs (withoutReset s.inputs)
    else s

end Sys2Proof.Machine
end

