-- ==== Sys2Proof/Machine/Step.lean ====
section
/-! DEFINITION. One clock step of the machine, and where a word is put so that the next step runs it. -/

namespace Sys2Proof.Machine

/-- One clock step: the inputs of this step are sampled and consumed, and R110 applies. -/
def step (s : State) : Host.Outcome State Fault Refusal := engineStep s.sampled s.afterSample

/-- `s` with the word of `nbits` bits stored where the next step takes its operation from: the command port for
format CMD, the sequencer registers for format SEQ (log 2, log 6). -/
def State.withFetchWord (s : State) (nbits w : Nat) : State :=
  match wordOfNumber nbits w with
  | .error _ => s
  | .ok (.cmd cw) => s.presentWord cw
  | .ok (.seq sw) => s.placeSeqWord sw

end Sys2Proof.Machine
end

