-- ==== Sys2Proof/Machine/Trace.lean ====
section
/-! DEFINITION. Runs seen from the port: which commands are accepted, whether `rst` is used, and how long the engine
stays busy (R37, R121). -/

namespace Sys2Proof.Machine

/-- `k` steps, stopping at the first fault or refusal. -/
def run : Nat → State → Outcome
  | 0, s => .next s
  | k + 1, s =>
    match step s with
    | .next t => run k t
    | .fault f => .fault f
    | .refused r => .refused r

/-- Whether the next step accepts a command (R37). -/
def State.accepts (s : State) : Bool := !s.sampled.rst && s.sampled.cmdValid && s.cmdReady

/-- The command the next step accepts, if any (R37, R71). -/
def State.acceptedCmd (s : State) : Option Instr :=
  if s.accepts then some (decodeCmd s.sampled.word) else none

/-- The commands accepted in the next `k` steps, in order (R61). -/
def acceptedRun : Nat → State → List Instr
  | 0, _ => []
  | k + 1, s =>
    s.acceptedCmd.toList ++
      match step s with
      | .next t => acceptedRun k t
      | .fault _ => []
      | .refused _ => []

/-- No `rst` in the next `k` steps. -/
def rstFree (k : Nat) (s : State) : Bool := (s.inputs.take k).all fun p => !p.rst

/-- The steps until `cmd_ready` = 1 when `rst` stays 0 (R121). -/
def State.busySteps (s : State) : Nat := if s.fsm = .idle then 0 else 24 - s.rnd.val

end Sys2Proof.Machine
end

