-- ==== Sys2Proof/Machine/ClosedForm.lean ====
section
/-! DEFINITION. What the commands add up to: the closed form of R122, and the transition that R172 allows a model to
collapse a command and its permutation into. -/

namespace Sys2Proof.Machine

/-- `M` of R122: the message, the domain byte, the least number of zero bytes that makes the length a multiple of
the rate, and the last byte OR-ed with `0x80`. -/
def paddedMessage (m : List Byte) : List Byte :=
  let z := (Config.rate - (m.length + 1) % Config.rate) % Config.rate
  let M := m ++ [Config.domain] ++ List.replicate z 0
  M.modify (M.length - 1) (· ||| Config.padEnd)

/-- `P[q]`: the q-th block of `M` (R122). -/
def messageBlock (M : List Byte) (q : Nat) : Block :=
  Vector.ofFn fun j : Fin 136 => M.getD (Config.rate * q + j.val) 0

/-- The lanes after all `t = n / 136 + 1` blocks (R122). -/
def spongeLanes (m : List Byte) : Lanes :=
  (List.range (m.length / Config.rate + 1)).foldl
    (fun A q => permute (absorbBlock A (messageBlock (paddedMessage m) q))) zeroLanes

/-- Keccak-256 of `m` by the closed form (R122), byte 0 first. -/
def keccak256 (m : List Byte) : List Byte := squeeze (spongeLanes m)

/-- The state in which the running permutation has ended (R100, R117, R119). -/
def finishPermutation (s : State) : State :=
  match s.fsm with
  | .idle => s
  | .permA => (s.setLanes (permute s.lanes)).setSequencer .idle 0
  | .permF => ((s.setLanes (permute s.lanes)).setSequencer .idle 0).setPhase .spent

/-- A command and the permutation it starts as one transition (R172). -/
def collapsed (i : Instr) (s : State) : Outcome :=
  match exec i s with
  | .next t => .next (finishPermutation t)
  | .fault f => .fault f
  | .refused r => .refused r

/-- The collapsed transitions of a command sequence, in order. -/
def collapsedRun : List Instr → State → Outcome
  | [], s => .next s
  | i :: is, s =>
    match collapsed i s with
    | .next t => collapsedRun is t
    | .fault f => .fault f
    | .refused r => .refused r

end Sys2Proof.Machine
end

