-- ==== Sys2Proof/Machine/Script.lean ====
section
/-! DEFINITION. Command streams as a well-behaved host issues them: the directives of R79, the waiting of R165, and
the pseudo-instructions of R82. None of it is state of the engine. -/

namespace Sys2Proof.Machine

/-- What `.expect` can name: state and outputs (R79). -/
inductive Observable where
  | lane (i : Fin 25)
  | buf (j : Nat)
  | blen
  | phase
  | fsm
  | rnd
  | err
  | ecause
  | cmdReady
  | digestValid
  | digest
  deriving DecidableEq, Repr

/-- The value of an observable; none for a buffer cell at or above `blen`, which is not state (R25). -/
def Observable.value (s : State) : Observable → Option Nat
  | .lane i => some s.lanes[i].toNat
  | .buf j => s.buf.bytes[j]?.map BitVec.toNat
  | .blen => some s.buf.blen
  | .phase => some s.phase.bits.toNat
  | .fsm => some s.fsm.bits.toNat
  | .rnd => some s.rnd.val
  | .err => some s.err.toNat
  | .ecause => some s.ecause.bits.toNat
  | .cmdReady => some s.cmdReady.toNat
  | .digestValid => some s.digestValid.toNat
  | .digest => some s.digest.toNat

/-- One line of a command stream: an accepted command, or a directive (R78, R79). -/
inductive Line where
  | cmd (cw : CmdWord)
  | rst
  | wait
  | expect (o : Observable) (v : Nat)
  deriving DecidableEq, Repr

/-- The inputs a host presents for a line from state `s`: a command is held until it is accepted and released after
it (R165, R166); `.rst` is one step; `.wait` presents nothing until `cmd_ready` = 1 (R79). -/
def Line.inputs (s : State) : Line → List PortInput
  | .cmd cw => List.replicate s.busySteps (PortInput.present cw) ++ [PortInput.present cw]
  | .rst => [PortInput.hardReset]
  | .wait => List.replicate s.busySteps PortInput.idle
  | .expect _ _ => []

/-- A run over exactly the given inputs. -/
def runInputs (l : List PortInput) (s : State) : Outcome := run l.length (s.setInputs l)

/-- Runs one line. -/
def runLine (l : Line) (s : State) : Outcome := runInputs (l.inputs s) s

/-- Runs a stream line by line. -/
def runScript : List Line → State → Outcome
  | [], s => .next s
  | l :: ls, s =>
    match runLine l s with
    | .next t => runScript ls t
    | .fault f => .fault f
    | .refused r => .refused r

/-- The number of clock steps a stream takes (R172). -/
def scriptSteps : List Line → State → Nat
  | [], _ => 0
  | l :: ls, s =>
    (l.inputs s).length +
      match runLine l s with
      | .next t => scriptSteps ls t
      | .fault _ => 0
      | .refused _ => 0

/-- Whether every `.expect` of a stream holds where it stands (R79). -/
def scriptHolds : List Line → State → Bool
  | [], _ => true
  | l :: ls, s =>
    (match l with
      | .expect o v => decide (o.value s = some v)
      | .cmd _ => true
      | .rst => true
      | .wait => true) &&
      match runLine l s with
      | .next t => scriptHolds ls t
      | .fault _ => false
      | .refused _ => false

/-- The canonical word of a command (R81); a sequencer-selected operation has none. -/
def commandWord (i : Instr) : Option CmdWord :=
  match encode i with
  | .cmd cw => some cw
  | .seq _ => none

/-- `UPDATE_BYTES m` (R82). -/
def updateBytes (m : List Byte) : List Line := m.map fun b => .cmd (cmdWordOf 0b01#2 b)

/-- `FINALIZE` of R82: the command, then `.wait`; the digest is then read from the port. -/
def finalizeLines : List Line := [.cmd 0x200, .wait]

/-- `RESET` of R82. -/
def resetLine : Line := .cmd 0x300

/-- The lines of one message on a fresh engine. -/
def messageLines (m : List Byte) : List Line := updateBytes m ++ finalizeLines

/-- `HASH m` (R82). -/
def hashLines (m : List Byte) : List Line := resetLine :: messageLines m

/-- Stream hashing (R82): the chunks in order between RESET and FINALIZE. -/
def streamLines (chunks : List (List Byte)) : List Line :=
  resetLine :: chunks.flatMap updateBytes ++ finalizeLines

end Sys2Proof.Machine
end

