-- ==== Sys2Proof/Machine/Listing.lean ====
section
/-! DEFINITION. The assembler notation of R78 to R81: the text of a command word, the listing line, and reading one
line of a command stream. It is the notation of the spec's test programs, not part of the hardware (D19; log 10). -/

namespace Sys2Proof.Machine

/-- `n` hexadecimal digits of a number, upper case, most significant first (R9, R80). -/
def hexDigits : Nat → Nat → String
  | 0, _ => ""
  | n + 1, v => hexDigits n (v / 16) ++ (Nat.digitChar (v % 16)).toUpper.toString

/-- The text of a command word; an ignored byte that is not 0 stands in a comment (R78, R81). -/
def commandText (cw : CmdWord) : String :=
  let ignored := if cmdData cw = 0 then "" else "  ; data 0x" ++ hexDigits 2 (cmdData cw).toNat ++ " ignored"
  match decodeCmd cw with
  | .nop => "NOP" ++ ignored
  | .update b => "UPDATE 0x" ++ hexDigits 2 b.toNat
  | .finalize => "FINALIZE" ++ ignored
  | .reset => "RESET" ++ ignored
  | .permA _ => ""
  | .permF _ => ""

/-- A listing line: the word as three hexadecimal digits, then the text (R80). -/
def listingLine (cw : CmdWord) : String := hexDigits 3 cw.toNat ++ "  " ++ commandText cw

/-- The apostrophe that quotes an ASCII character (R78). -/
def quoteChar : Char := Char.ofNat 39

/-- The tokens of a line: a `;` outside quotes starts a comment, blanks separate, a quoted character stays whole
(R78). `keep` counts the characters still to be taken as they stand, `acc` is the token read so far, reversed. -/
def lineTokens : Nat → List Char → List Char → List (List Char)
  | _, acc, [] => if acc = [] then [] else [acc.reverse]
  | keep, acc, c :: rest =>
    if 0 < keep then lineTokens (keep - 1) (c :: acc) rest
    else if c = quoteChar ∧ rest[1]? = some quoteChar then lineTokens 2 (c :: acc) rest
    else if c = ';' then (if acc = [] then [] else [acc.reverse])
    else if c = ' ' ∨ c = '\t' then
      (if acc = [] then lineTokens 0 [] rest else acc.reverse :: lineTokens 0 [] rest)
    else lineTokens 0 (c :: acc) rest

/-- The value of one digit in a base up to 16. -/
def digitValue (base : Nat) (c : Char) : Option Nat :=
  let v :=
    if '0' ≤ c ∧ c ≤ '9' then c.toNat - 48
    else if 'a' ≤ c ∧ c ≤ 'f' then c.toNat - 87
    else if 'A' ≤ c ∧ c ≤ 'F' then c.toNat - 55
    else 16
  if v < base then some v else none

/-- The number written by the digits, most significant first; none for no digit. -/
def digitsValue (base : Nat) (ds : List Char) : Option Nat :=
  if ds = [] then none
  else ds.foldl (fun acc c => acc.bind fun n => (digitValue base c).map fun d => base * n + d) (some 0)

/-- The data byte of UPDATE: hexadecimal, decimal 0..255, or a quoted ASCII character (R78). -/
def byteOperand (tok : List Char) : Option Byte :=
  let n :=
    match tok with
    | [q, c, q'] =>
      if q = quoteChar ∧ q' = quoteChar then (if c.toNat < 128 then some c.toNat else none)
      else if q = '0' ∧ c = 'x' then digitsValue 16 [q'] else digitsValue 10 tok
    | '0' :: 'x' :: ds => digitsValue 16 ds
    | _ => digitsValue 10 tok
  n.bind fun v => if v ≤ 255 then some (BitVec.ofNat 8 v) else none

/-- Reads one line: `some none` for a blank or comment line, `none` for text that is neither a command of R78 nor
`.rst` or `.wait` of R79. The words are the canonical ones of R81. -/
def parseLine (text : List Char) : Option (Option Line) :=
  match lineTokens 0 [] text with
  | [] => some none
  | [t] =>
    if t = ['N', 'O', 'P'] then some (some (.cmd 0x000))
    else if t = ['F', 'I', 'N', 'A', 'L', 'I', 'Z', 'E'] then some (some (.cmd 0x200))
    else if t = ['R', 'E', 'S', 'E', 'T'] then some (some (.cmd 0x300))
    else if t = ['.', 'r', 's', 't'] then some (some .rst)
    else if t = ['.', 'w', 'a', 'i', 't'] then some (some .wait)
    else none
  | [t, d] =>
    if t = ['U', 'P', 'D', 'A', 'T', 'E'] then
      (byteOperand d).map fun b => some (.cmd (cmdWordOf 0b01#2 b))
    else none
  | _ => none

end Sys2Proof.Machine
end

