-- ==== Sys2Proof/Safety.lean ====
section
/-! DEFINITION. What claims about a run use: the invariant of R40, the host's duty of R168, faulted runs (R142), and
the digest a claim may speak of (R167). -/

namespace Sys2Proof.Machine

/-- The invariants of R40, item by item. -/
structure Inv (s : State) : Prop where
  /-- 1: `blen <= 135`. -/
  blen_le : s.buf.blen ≤ 135
  /-- 2: `rnd <= 23`; the types of `fsm` and `phase` hold the three legal values only. -/
  rnd_le : s.rnd.val ≤ 23
  /-- 3. -/
  idle_rnd : s.fsm = .idle → s.rnd = 0
  /-- 4. -/
  fresh_clear : s.phase = .fresh → s.lanes = zeroLanes ∧ s.buf.blen = 0 ∧ s.fsm = .idle ∧ s.err = false
  /-- 5. -/
  busy_absorbing : s.fsm ≠ .idle → s.phase = .absorbing ∧ s.buf.blen = 0
  /-- 6. -/
  spent_idle : s.phase = .spent → s.fsm = .idle ∧ s.buf.blen = 0
  /-- 7, first clause. -/
  err_spent : s.err = true → s.phase = .spent
  /-- 7, second clause. -/
  ecause_err : s.ecause ≠ .none ↔ s.err = true

/-- The host's duty of R168 for the next step: no UPDATE or FINALIZE is accepted in SPENT. -/
def State.dutiful (s : State) : Bool :=
  match s.acceptedCmd with
  | some (.update _) => decide (s.phase ≠ .spent)
  | some .finalize => decide (s.phase ≠ .spent)
  | some .nop => true
  | some .reset => true
  | some (.permA _) => true
  | some (.permF _) => true
  | none => true

/-- The host keeps its duty in each of the next `k` steps. -/
def dutifulRun : Nat → State → Bool
  | 0, _ => true
  | k + 1, s =>
    s.dutiful &&
      match step s with
      | .next t => dutifulRun k t
      | .fault _ => true
      | .refused _ => true

/-- `err` is 1 in no state of the next `k` steps, the first included: the run is not faulted (R142). -/
def faultFree : Nat → State → Bool
  | 0, s => !s.err
  | k + 1, s =>
    !s.err &&
      match step s with
      | .next t => faultFree k t
      | .fault _ => false
      | .refused _ => false

/-- The digest a claim may speak of: only under `digest_valid` (R167), and none once `err` is 1, so that nothing is
claimed of a second FINALIZE (R142, U1; log 5). -/
def State.claimedDigest (s : State) : Option (List Byte) :=
  if s.digestValid && !s.err then some (squeeze s.lanes) else none

end Sys2Proof.Machine
end

