-- ==== Sys2Proof/Certificates/Slice0/Obligations.lean ====
section
/-! DEFINITION. The statements about the model, for the provers. Each docstring names the rule it formalises; where a
clause rests on a choice of the model, it names the log entry, and where the spec marks the rule as its own derivation
or as general knowledge, it says so. -/

open Sys2Proof Sys2Proof.Machine

/-! ## Encoding -/

/-- Words written out from R70, R71 and R75 (T-CMD of 95_test_vectors.md) decode to the operations they stand for;
which number means which format is the model's choice (log 6). -/
def Obligations.SpecWordsDecodeAsListed : Prop :=
  decodeCmd 0b00_00000000#10 = .nop ∧ decodeCmd 0b00_10100101#10 = .nop ∧
  decodeCmd 0b01_01100001#10 = .update 0x61 ∧ decodeCmd 0b01_11111111#10 = .update 0xFF ∧
  decodeCmd 0b10_00000000#10 = .finalize ∧ decodeCmd 0b10_11111111#10 = .finalize ∧
  decodeCmd 0b11_00000000#10 = .reset ∧ decodeCmd 0b11_01111110#10 = .reset ∧
  decodeSeq 0b01_00101#7 = .ok (.permA 5) ∧ decodeSeq 0b10_10111#7 = .ok (.permF 23) ∧
  decodeTableWord 16 0x161 = some (.update 0x61) ∧ decodeTableWord 8 0x40 = some (.permF 0)

/-- R70, R71, R75, R81: every well-formed operation, with every operand, is read back from its own word. -/
def Obligations.EncodedOperationDecodesToItself : Prop :=
  ∀ i : Instr, WellFormed i → decode (encode i) = .ok i

/-- R71 with R72: the four rows by match and mask, and no word outside them. -/
def Obligations.CommandWordSelectsItsRow : Prop :=
  ∀ cw : CmdWord,
    (cw &&& 0x300#10 = 0x000#10 → decodeCmd cw = .nop) ∧
    (cw &&& 0x300#10 = 0x100#10 → decodeCmd cw = .update (cw.extractLsb' 0 8)) ∧
    (cw &&& 0x300#10 = 0x200#10 → decodeCmd cw = .finalize) ∧
    (cw &&& 0x300#10 = 0x300#10 → decodeCmd cw = .reset) ∧
    (cw &&& 0x300#10 = 0x000#10 ∨ cw &&& 0x300#10 = 0x100#10 ∨ cw &&& 0x300#10 = 0x200#10 ∨
      cw &&& 0x300#10 = 0x300#10)

/-- R74 and R81: the data field of NOP, FINALIZE and RESET is ignored, and the encoder's canonical word is the word
with that field zero; UPDATE's word comes back whole. -/
def Obligations.IgnoredDataIsDroppedAndCanonicalised : Prop :=
  ∀ (op : BitVec 2) (d : Byte),
    (op = 0b01#2 → encode (decodeCmd (cmdWordOf op d)) = .cmd (cmdWordOf op d)) ∧
    (op ≠ 0b01#2 →
      (∀ d' : Byte, decodeCmd (cmdWordOf op d) = decodeCmd (cmdWordOf op d')) ∧
      encode (decodeCmd (cmdWordOf op d)) = .cmd (cmdWordOf op 0))

/-- R75: a sequencer word selects PERM.A or PERM.F exactly when `fsm` is 1 or 2 and `rnd` is 0..23; every other word
selects no round step. -/
def Obligations.SequencerWordSelectsItsRow : Prop :=
  ∀ (f : BitVec 2) (r : BitVec 5),
    (f = 0b01#2 ∧ r.toNat ≤ 23 → decodeSeq (f ++ r) = .ok (.permA r)) ∧
    (f = 0b10#2 ∧ r.toNat ≤ 23 → decodeSeq (f ++ r) = .ok (.permF r)) ∧
    (¬((f = 0b01#2 ∨ f = 0b10#2) ∧ r.toNat ≤ 23) → ∀ i : Instr, decodeSeq (f ++ r) ≠ .ok i)

/-- The fixed names of the model (log 2, log 6): a word the decoder reads, put where the next step takes its
operation from, is the operation that step runs. -/
def Obligations.PlacedWordIsRunByTheNextStep : Prop :=
  ∀ (s : State) (nbits w : Nat) (i : Instr), decodeTableWord nbits w = some i →
    step (s.withFetchWord nbits w) = exec i (s.withFetchWord nbits w).afterSample

/-- R80 and R81: the listing lines the spec prints. -/
def Obligations.ListingLinesOfTheSpec : Prop :=
  listingLine 0x161#10 = "161  UPDATE 0x61" ∧ listingLine 0x200#10 = "200  FINALIZE" ∧
  listingLine 0x300#10 = "300  RESET" ∧ listingLine 0x000#10 = "000  NOP" ∧
  listingLine 0x2FF#10 = "2FF  FINALIZE  ; data 0xFF ignored"

/-! ## The step -/

/-- R110: one step, case by case, in the order of the rule. The inputs of the step are the head of the trace
(log 1). -/
def Obligations.StepRunsTheSelectedOperation : Prop :=
  ∀ s : State,
    (s.sampled.rst = true → step s = .next (hardReset s.afterSample)) ∧
    (s.sampled.rst = false → s.fsm = .permA → step s = exec (.permA (roundBits s.rnd)) s.afterSample) ∧
    (s.sampled.rst = false → s.fsm = .permF → step s = exec (.permF (roundBits s.rnd)) s.afterSample) ∧
    (s.sampled.rst = false → s.fsm = .idle → s.sampled.cmdValid = true →
      step s = exec (decodeCmd (s.sampled.cmdOp ++ s.sampled.cmdData)) s.afterSample) ∧
    (s.sampled.rst = false → s.fsm = .idle → s.sampled.cmdValid = false → step s = .next s.afterSample)

/-- R110 and R74: from every state every step has a next state, and it consumes one entry of the trace (the trace is
the model's, log 1). -/
def Obligations.StepAlwaysAnswersNext : Prop :=
  ∀ s : State, ∃ t, step s = .next t ∧ t.inputs = s.inputs.tail

/-- R160: what a step with `rst` = 1 writes, whatever else is presented or running. -/
def Obligations.HardResetWritesEveryRegister : Prop :=
  ∀ s : State, s.sampled.rst = true →
    step s = .next
      { lanes := Vector.replicate 25 0#64, buf := ⟨[], by decide⟩, phase := .fresh, fsm := .idle, rnd := 0,
        err := false, ecause := .none, inputs := s.inputs.tail }

/-- R41: the state and the outputs after reset; and R23, R26: every lane 0 and the buffer empty. -/
def Obligations.ResetStateAndOutputs : Prop :=
  (∀ i : Fin 25, State.reset.lanes[i] = 0x0000000000000000#64) ∧ State.reset.buf.blen = 0 ∧
  State.reset.phase = .fresh ∧ State.reset.fsm = .idle ∧ State.reset.rnd = 0 ∧
  State.reset.err = false ∧ State.reset.ecause = .none ∧
  State.reset.outputs =
    { cmdReady := true, digestValid := false, digest := 0, phase := 0, err := false, ecause := 0 }

/-- R37: acceptance, and that the command inputs count in an accepting step only. -/
def Obligations.OnlyAcceptingStepsReadTheCommand : Prop :=
  ∀ (p q : PortInput) (s : State),
    (p.rst = false ∧ p.cmdValid = true ∧ s.cmdReady = true →
      engineStep p s = exec (decodeCmd (p.cmdOp ++ p.cmdData)) s) ∧
    (¬(p.rst = false ∧ p.cmdValid = true ∧ s.cmdReady = true) → q.rst = p.rst →
      (s.cmdReady = true → q.cmdValid = p.cmdValid) → engineStep q s = engineStep p s)

/-! ## The commands -/

/-- R111: NOP writes no register, in any state. -/
def Obligations.NopWritesNoRegister : Prop := ∀ s : State, exec .nop s = .next s

/-- R112, branch by branch, with what each leaves unchanged. The filling branch computes every byte of the state
space: `S[0..135]` is XOR-ed with the 135 buffered bytes and `b`, `S[136..199]` is unchanged. -/
def Obligations.UpdateBuffersOrAbsorbs : Prop :=
  ∀ (b : Byte) (s : State),
    (s.phase = .spent → exec (.update b) s = .next (raiseProtocolFault .updateInSpent s)) ∧
    (s.phase ≠ .spent → s.buf.blen < 135 →
      ∃ t, exec (.update b) s = .next t ∧ t.buf.bytes = s.buf.bytes ++ [b] ∧ t.phase = .absorbing ∧
        t.lanes = s.lanes ∧ (∀ k : Fin 200, stateByte t.lanes k = stateByte s.lanes k) ∧ t.fsm = s.fsm ∧
        t.rnd = s.rnd ∧ t.err = s.err ∧ t.ecause = s.ecause ∧ t.inputs = s.inputs) ∧
    (s.phase ≠ .spent → s.buf.blen = 135 →
      ∃ t, exec (.update b) s = .next t ∧
        (∀ k : Fin 200, stateByte t.lanes k = stateByte s.lanes k ^^^
          (if k.val < 135 then s.buf.bytes.getD k.val 0 else if k.val = 135 then b else 0)) ∧
        t.buf.blen = 0 ∧ t.phase = .absorbing ∧ t.fsm = .permA ∧ t.rnd = 0 ∧
        t.err = s.err ∧ t.ecause = s.ecause ∧ t.inputs = s.inputs)

/-- R113 with R115 and R116: outside SPENT the padded block is absorbed, byte by byte as PAD gives it, and the final
permutation starts; `S[136..199]` and the fault mark are unchanged. -/
def Obligations.FinalizeAbsorbsThePaddedBlock : Prop :=
  ∀ s : State,
    (s.phase = .spent → exec .finalize s = .next (raiseProtocolFault .finalizeInSpent s)) ∧
    (s.phase ≠ .spent →
      ∃ t, exec .finalize s = .next t ∧
        (∀ k : Fin 200, stateByte t.lanes k = stateByte s.lanes k ^^^
          (if k.val < s.buf.blen then s.buf.bytes.getD k.val 0
            else (if k.val = s.buf.blen then 0x01#8 else 0x00#8) ||| (if k.val = 135 then 0x80#8 else 0x00#8))) ∧
        t.buf.blen = 0 ∧ t.phase = .absorbing ∧ t.fsm = .permF ∧ t.rnd = 0 ∧
        t.err = s.err ∧ t.ecause = s.ecause ∧ t.inputs = s.inputs)

/-- R114: what RESET writes, in any phase. -/
def Obligations.ResetCommandWritesEveryRegister : Prop :=
  ∀ s : State,
    exec .reset s = .next
      { lanes := Vector.replicate 25 0#64, buf := ⟨[], by decide⟩, phase := .fresh, fsm := .idle, rnd := 0,
        err := false, ecause := .none, inputs := s.inputs }

/-- R115: PAD, byte by byte. -/
def Obligations.PadLaysOutTheBlock : Prop :=
  ∀ (m : Buffer) (j : Fin 136),
    (j.val < m.blen → (pad m)[j] = m.bytes.getD j.val 0) ∧
    (j.val = m.blen → j.val ≠ 135 → (pad m)[j] = 0x01#8) ∧
    (m.blen < j.val → j.val ≠ 135 → (pad m)[j] = 0x00#8) ∧
    (j.val = 135 → m.blen = 135 → (pad m)[j] = 0x81#8) ∧
    (j.val = 135 → m.blen < 135 → (pad m)[j] = 0x80#8)

/-- R116: ABSORB_BLOCK in its byte form and in its lane form. -/
def Obligations.AbsorbXorsTheRateBytes : Prop :=
  ∀ (A : Lanes) (block : Block),
    (∀ k : Fin 200, stateByte (absorbBlock A block) k =
      if h : k.val < 136 then stateByte A k ^^^ block[k.val] else stateByte A k) ∧
    (∀ (i : Fin 17), ((absorbBlock A block)[i.val]'(by omega)).toNat =
      (A[i.val]'(by omega)).toNat ^^^ leNumber ((List.finRange 8).map fun j => block[8 * i.val + j.val])) ∧
    (∀ i : Fin 25, 17 ≤ i.val → (absorbBlock A block)[i] = A[i])

/-! ## The round steps -/

/-- R117 with R99: PERM.A applies the five mappings in the rule's order with its round index and moves the sequencer;
every other register is unchanged. -/
def Obligations.PermADoesOneRound : Prop :=
  ∀ (r : BitVec 5) (s : State) (h : r.toNat ≤ 23),
    ∃ t, exec (.permA r) s = .next t ∧
      t.lanes = iota (chi (pi (rho (theta s.lanes)))) ⟨r.toNat, by omega⟩ ∧
      (r.toNat = 23 → t.fsm = .idle ∧ t.rnd.val = 0) ∧
      (r.toNat < 23 → t.fsm = s.fsm ∧ t.rnd.val = r.toNat + 1) ∧
      t.buf = s.buf ∧ t.phase = s.phase ∧ t.err = s.err ∧ t.ecause = s.ecause ∧ t.inputs = s.inputs

/-- R119 with R99: PERM.F is the same, and its last round writes `phase <- SPENT`. -/
def Obligations.PermFDoesOneRoundAndFinishesSpent : Prop :=
  ∀ (r : BitVec 5) (s : State) (h : r.toNat ≤ 23),
    ∃ t, exec (.permF r) s = .next t ∧
      t.lanes = iota (chi (pi (rho (theta s.lanes)))) ⟨r.toNat, by omega⟩ ∧
      (r.toNat = 23 → t.fsm = .idle ∧ t.rnd.val = 0 ∧ t.phase = .spent) ∧
      (r.toNat < 23 → t.fsm = s.fsm ∧ t.rnd.val = r.toNat + 1 ∧ t.phase = s.phase) ∧
      t.buf = s.buf ∧ t.err = s.err ∧ t.ecause = s.ecause ∧ t.inputs = s.inputs

/-- The model's choice (log 4), after U7's treatment of encodings no rule produces: a round index 24..31 stops. -/
def Obligations.UnreachableRoundIndexStops : Prop :=
  ∀ (r : BitVec 5) (s : State), 24 ≤ r.toNat →
    exec (.permA r) s = .fault .stuckSequencer ∧ exec (.permF r) s = .fault .stuckSequencer

/-! ## The protocol fault -/

/-- R143: the entry of the protocol fault by both commands: the two flag writes of a first fault, and nothing else;
the engine stays ready with its digest. -/
def Obligations.MisuseEntersTheProtocolFault : Prop :=
  ∀ (b : Byte) (s : State), s.phase = .spent →
    (s.err = false →
      exec (.update b) s = .next { s with err := true, ecause := .updateInSpent } ∧
      exec .finalize s = .next { s with err := true, ecause := .finalizeInSpent }) ∧
    (s.err = true → exec (.update b) s = .next s ∧ exec .finalize s = .next s) ∧
    (∀ t, exec (.update b) s = .next t ∨ exec .finalize s = .next t →
      t.cmdReady = s.cmdReady ∧ t.digestValid = true ∧ t.digest = s.digest)

/-- R141: no operation but UPDATE and FINALIZE in SPENT raises anything, with the cause of the table. -/
def Obligations.OnlyMisuseRaisesTheFault : Prop :=
  ∀ (i : Instr) (s t : State), s.err = false → exec i s = .next t →
    (t.err = true ↔ s.phase = .spent ∧ ((∃ b, i = .update b) ∨ i = .finalize)) ∧
    (t.err = true → (∃ b, i = .update b) → t.ecause = .updateInSpent) ∧
    (t.err = true → i = .finalize → t.ecause = .finalizeInSpent)

/-- R144: a step that neither resets nor accepts RESET keeps the mark and the first cause. -/
def Obligations.FirstCauseIsKeptUntilReset : Prop :=
  ∀ s t : State, s.err = true → step s = .next t → s.sampled.rst = false → s.acceptedCmd ≠ some .reset →
    t.err = true ∧ t.ecause = s.ecause

/-! ## Frames -/

/-- R22 and R57, for every operation: the bytes `S[k]` an operation can change. NOP, an UPDATE that does not fill the
buffer and every misuse change none, a filling UPDATE and FINALIZE none of `S[136..199]`; RESET zeroes all; the round
steps are the only others. -/
def Obligations.StateBytesChangeOnlyWhereWritten : Prop :=
  ∀ (i : Instr) (s t : State), exec i s = .next t → ∀ k : Fin 200,
    (i = .nop → stateByte t.lanes k = stateByte s.lanes k) ∧
    ((∃ b, i = .update b) → (s.phase = .spent ∨ s.buf.blen < 135 ∨ 136 ≤ k.val) →
      stateByte t.lanes k = stateByte s.lanes k) ∧
    (i = .finalize → (s.phase = .spent ∨ 136 ≤ k.val) → stateByte t.lanes k = stateByte s.lanes k) ∧
    (i = .reset → stateByte t.lanes k = 0) ∧
    (stateByte t.lanes k ≠ stateByte s.lanes k →
      (∃ b, i = .update b) ∨ i = .finalize ∨ i = .reset ∨ (∃ r, i = .permA r) ∨ (∃ r, i = .permF r))

/-- The column "written by" of 10_state.md section 1, for every operation: which operations can change which
register, and that none touches the model's input trace (log 1). -/
def Obligations.RegistersChangeOnlyByTheirWriters : Prop :=
  ∀ (i : Instr) (s t : State), exec i s = .next t →
    (t.lanes ≠ s.lanes →
      s.phase ≠ .spent ∧ ((∃ b, i = .update b ∧ s.buf.blen = 135) ∨ i = .finalize) ∨ i = .reset ∨
        (∃ r, i = .permA r) ∨ (∃ r, i = .permF r)) ∧
    (t.buf ≠ s.buf → s.phase ≠ .spent ∧ ((∃ b, i = .update b) ∨ i = .finalize) ∨ i = .reset) ∧
    (t.phase ≠ s.phase →
      s.phase ≠ .spent ∧ ((∃ b, i = .update b) ∨ i = .finalize) ∨ i = .reset ∨ i = .permF 23) ∧
    (t.fsm ≠ s.fsm ∨ t.rnd ≠ s.rnd →
      s.phase ≠ .spent ∧ ((∃ b, i = .update b ∧ s.buf.blen = 135) ∨ i = .finalize) ∨ i = .reset ∨
        (∃ r, i = .permA r) ∨ (∃ r, i = .permF r)) ∧
    (t.err ≠ s.err ∨ t.ecause ≠ s.ecause →
      s.phase = .spent ∧ ((∃ b, i = .update b) ∨ i = .finalize) ∨ i = .reset) ∧
    t.inputs = s.inputs

/-! ## Views and outputs -/

/-- R51: the lanes and the byte space are the same bits, little-endian, both ways. -/
def Obligations.LanesAreLittleEndianInTheByteSpace : Prop :=
  ∀ (A : Lanes) (i : Fin 25),
    memRead A (8 * i.val) 8 = some A[i].toNat ∧
    (∀ (k : Fin 200) (j : Nat), k.val / 8 = i.val → j < 8 →
      (stateByte A k).getLsbD j = A[i].getLsbD (8 * (k.val % 8) + j))

/-- R12: what MemWrite writes MemRead reads back, and every byte outside stays. -/
def Obligations.WrittenBytesReadBack : Prop :=
  ∀ (A : Lanes) (addr n v : Nat), addr + n ≤ 200 →
    ∃ B, memWrite A addr n v = some B ∧ memRead B addr n = some (v % 256 ^ n) ∧
      ∀ k : Fin 200, k.val < addr ∨ addr + n ≤ k.val → stateByte B k = stateByte A k

/-- R36 with R118: every output port as a function of the state; byte i of the digest is `S[i]`. -/
def Obligations.OutputPortsShowTheState : Prop :=
  ∀ s : State,
    (s.outputs.cmdReady = true ↔ s.fsm = .idle) ∧
    (s.outputs.digestValid = true ↔ s.phase = .spent) ∧
    (s.phase = .spent → ∀ i : Fin 32,
      s.outputs.digest.extractLsb' (8 * i.val) 8 = stateByte s.lanes ⟨i.val, by omega⟩) ∧
    (s.phase ≠ .spent → s.outputs.digest = 0) ∧
    s.outputs.phase = (match s.phase with | .fresh => 0#2 | .absorbing => 1#2 | .spent => 2#2) ∧
    s.outputs.err = s.err ∧
    s.outputs.ecause = (match s.ecause with | .none => 0#2 | .updateInSpent => 1#2 | .finalizeInSpent => 2#2)

/-- R22, R36, R169 (marked derived in the spec): outside SPENT the outputs tell nothing of lanes, buffer or round,
and in SPENT nothing of them but `S[0..31]`. -/
def Obligations.OutputsRevealOnlyTheDigest : Prop :=
  ∀ s t : State, s.phase = t.phase → s.fsm = t.fsm → s.err = t.err → s.ecause = t.ecause →
    (s.phase = .spent → ∀ k : Fin 200, k.val < 32 → stateByte s.lanes k = stateByte t.lanes k) →
    s.outputs = t.outputs

/-- R167: the digest port reads zero without `digest_valid`, and once valid it keeps its value over any number of
steps without `rst` and without an accepted RESET, a protocol fault included. The premise is the invariant of R40. -/
def Obligations.DigestIsStableUntilReset : Prop :=
  ∀ s : State, (s.digestValid = false → s.digest = 0) ∧
    ∀ (k : Nat) (t : State), Inv s → s.digestValid = true → rstFree k s = true →
      Instr.reset ∉ acceptedRun k s → run k s = .next t →
      t.digestValid = true ∧ t.digest = s.digest ∧ t.lanes = s.lanes ∧ t.cmdReady = true

/-! ## The permutation core -/

/-- R94: THETA with its column parities, and the parity of a column after it. (The spec takes the rotation from
general knowledge, G4.) -/
def Obligations.ThetaMixesColumnParities : Prop :=
  ∀ (A : Lanes) (x y : Fin 5),
    columnParity A x = lane A x 0 ^^^ lane A x 1 ^^^ lane A x 2 ^^^ lane A x 3 ^^^ lane A x 4 ∧
    lane (theta A) x y =
      lane A x y ^^^ (columnParity A (x - 1) ^^^ (columnParity A (x + 1)).rotateLeft 1) ∧
    columnParity (theta A) x =
      columnParity A x ^^^ (columnParity A (x - 1) ^^^ (columnParity A (x + 1)).rotateLeft 1)

/-- R95 with R11: RHO moves bit i of lane (x,y) to bit `(i + ROT[x,y]) mod 64`, and leaves lane (0,0). -/
def Obligations.RhoRotatesEachLaneByItsOffset : Prop :=
  ∀ (A : Lanes) (x y : Fin 5),
    (∀ i : Fin 64, (lane (rho A) x y).getLsbD ((i.val + (ROT x y).val) % 64) = (lane A x y).getLsbD i.val) ∧
    lane (rho A) 0 0 = lane A 0 0

/-- R96: PI in the rule's own direction, source to destination, and that the map is a bijection on positions. -/
def Obligations.PiMovesEachLaneToItsPlace : Prop :=
  (∀ (A : Lanes) (x y : Fin 5), lane (pi A) y (2 * x + 3 * y) = lane A x y) ∧
  Function.Bijective fun p : Fin 5 × Fin 5 => ((p.2, 2 * p.1 + 3 * p.2) : Fin 5 × Fin 5)

/-- R97: CHI bit by bit, all five lanes of a row from the row's input values. -/
def Obligations.ChiCombinesEachRow : Prop :=
  ∀ (A : Lanes) (x y : Fin 5) (i : Nat), i < 64 →
    (lane (chi A) x y).getLsbD i =
      Bool.xor ((lane A x y).getLsbD i) (!((lane A (x + 1) y).getLsbD i) && (lane A (x + 2) y).getLsbD i)

/-- R98: IOTA changes lane (0,0) only, by the round's constant, and is its own inverse. -/
def Obligations.IotaTouchesLaneZeroOnly : Prop :=
  ∀ (A : Lanes) (ir : Fin 24),
    lane (iota A ir) 0 0 = lane A 0 0 ^^^ RC ir ∧
    (∀ x y : Fin 5, (x, y) ≠ (0, 0) → lane (iota A ir) x y = lane A x y) ∧
    iota (iota A ir) ir = A

/-- R99 with R94 to R98: a round is IOTA of CHI of PI of RHO of THETA, and so each lane of its result comes from the
input lanes: `B` is the value after RHO and PI, in PI's own direction (R96), of THETA written out (R94); CHI combines a
row of `B` (R97), and the round's constant enters lane (0,0) (R98). -/
def Obligations.RoundIsTheFiveMappingsInOrder : Prop :=
  ∀ (A : Lanes) (ir : Fin 24),
    keccakRound A ir = iota (chi (pi (rho (theta A)))) ir ∧
    ∀ C : Fin 5 → Lane, ∀ B : Fin 5 → Fin 5 → Lane,
      (∀ x, C x = lane A x 0 ^^^ lane A x 1 ^^^ lane A x 2 ^^^ lane A x 3 ^^^ lane A x 4) →
      (∀ x y, B y (2 * x + 3 * y) =
        (lane A x y ^^^ (C (x - 1) ^^^ (C (x + 1)).rotateLeft 1)).rotateLeft (ROT x y).val) →
      ∀ x y, lane (keccakRound A ir) x y =
        B x y ^^^ (~~~(B (x + 1) y) &&& B (x + 2) y) ^^^ (if x = 0 ∧ y = 0 then RC ir else 0)

/-- R101 (marked derived in the spec): RHO followed by PI is the fused table. -/
def Obligations.RhoThenPiIsTheFusedTable : Prop := ∀ A : Lanes, pi (rho A) = rhoPiFused A

/-- R102 and R103 (general knowledge, G1 and G2 of the spec): the recurrences give the two literal tables, and the
walk visits every position but (0,0). -/
def Obligations.RecurrencesGiveTheTables : Prop :=
  (∀ ir : Fin 24, RC ir = rcByRecurrence ir.val) ∧
  (∀ t : Fin 24, (ROT (rotWalk t.val).1 (rotWalk t.val).2).val = rotByRecurrence t.val) ∧ ROT 0 0 = 0 ∧
  ∀ x y : Fin 5, (x, y) ≠ (0, 0) → ∃ t : Fin 24, rotWalk t.val = (x, y)

/-- R100, R117, R119, R125 (the 24-step reading is marked derived in the spec): the 24 round steps of a permutation
apply PERMUTE, wait with `cmd_ready` = 0 and the round index counting up, and end idle; nothing else changes but
`phase`, which PERM_F sets to SPENT in its last step. -/
def Obligations.TwentyFourStepsApplyPermute : Prop :=
  ∀ s : State, s.fsm ≠ .idle → s.rnd = 0 → rstFree 24 s = true →
    (∀ k : Fin 24, ∃ u, run k.val s = .next u ∧ u.rnd = k ∧ u.fsm = s.fsm ∧ u.phase = s.phase ∧
      u.cmdReady = false) ∧
    run 24 s = .next
      { s with
        lanes := permute s.lanes, fsm := .idle, rnd := 0,
        phase := if s.fsm = .permF then .spent else s.phase, inputs := s.inputs.drop 24 }

/-! ## Invariants and whole-machine rules -/

/-- R40 holds in the state after reset. -/
def Obligations.ResetStateMeetsTheInvariants : Prop := Inv State.reset

/-- R40 (marked derived in the spec): every step from a state with the invariants leads to one with them. -/
def Obligations.EveryStepKeepsTheInvariants : Prop :=
  ∀ s t : State, Inv s → step s = .next t → Inv t

/-- R120: the transition table of `phase`, for every step from every state. -/
def Obligations.PhaseFollowsTheLifecycle : Prop :=
  ∀ s t : State, step s = .next t →
    t.phase =
      if s.sampled.rst then .fresh
      else match s.fsm with
        | .permA => s.phase
        | .permF => if s.rnd = 23 then .spent else s.phase
        | .idle =>
          match s.acceptedCmd with
          | some (.update _) => if s.phase = .spent then .spent else .absorbing
          | some .finalize => if s.phase = .spent then .spent else .absorbing
          | some .reset => .fresh
          | _ => s.phase

/-- R121 (marked derived in the spec): the engine is ready again after at most 24 steps without `rst`, and not
before. -/
def Obligations.BusyAtMostTwentyFourSteps : Prop :=
  ∀ s : State, s.busySteps ≤ 24 ∧
    (rstFree s.busySteps s = true → ∃ t, run s.busySteps s = .next t ∧ t.cmdReady = true) ∧
    ∀ (k : Nat) (u : State), k < s.busySteps → rstFree k s = true → run k s = .next u → u.cmdReady = false

/-- R121, R113 and R125 (marked derived in the spec): FINALIZE accepted outside SPENT is followed by the digest
exactly 24 steps after the accepting step, of the permuted state of the padded block. -/
def Obligations.FinalizeIsFollowedByTheDigest : Prop :=
  ∀ s : State, s.acceptedCmd = some .finalize → s.phase ≠ .spent → rstFree 25 s = true →
    (∀ (k : Nat) (u : State), k ≤ 24 → run k s = .next u → u.digestValid = false) ∧
    ∃ t, run 25 s = .next t ∧ t.digestValid = true ∧ t.cmdReady = true ∧
      t.lanes = permute (absorbBlock s.lanes (pad s.buf)) ∧ t.buf.blen = 0 ∧ t.err = s.err

/-- R124 and R161 (R124 is marked derived in the spec): a step with `rst` = 1 and a step that accepts RESET leave the
reset state in every register, whatever was there before. -/
def Obligations.ResetLeavesNoTrace : Prop :=
  ∀ s t : State, step s = .next t → (s.sampled.rst = true ∨ s.acceptedCmd = some .reset) →
    t.setInputs [] = State.reset

/-- R141 and the duty of R168: a host that never has UPDATE or FINALIZE accepted in SPENT sees no fault. -/
def Obligations.DutifulHostSeesNoFault : Prop :=
  ∀ (k : Nat) (s : State), s.err = false → dutifulRun k s = true → faultFree k s = true

/-- R165: a command held until it is accepted and then released is accepted exactly once, from every state. -/
def Obligations.HeldCommandIsAcceptedOnce : Prop :=
  ∀ (s : State) (cw : CmdWord),
    acceptedRun (Line.inputs s (.cmd cw)).length (s.setInputs (Line.inputs s (.cmd cw))) = [decodeCmd cw]

/-- R166: an UPDATE word left valid for k ready steps appends its byte k times. -/
def Obligations.WordLeftValidIsExecutedEachStep : Prop :=
  ∀ (s : State) (b : Byte) (k : Nat), s.fsm = .idle → s.phase ≠ .spent → s.buf.blen + k ≤ 135 →
    s.inputs = List.replicate k (PortInput.present (cmdWordOf 0b01#2 b)) →
    acceptedRun k s = List.replicate k (.update b) ∧
    ∃ t, run k s = .next t ∧ t.buf.bytes = s.buf.bytes ++ List.replicate k b ∧ t.lanes = s.lanes

/-! ## What the commands add up to -/

/-- R123 and R172 (R123 is marked derived in the spec): between idle states the machine does what the accepted
commands do when each is taken together with its permutation as one transition. -/
def Obligations.RunIsTheCollapsedCommands : Prop :=
  ∀ (k : Nat) (s t : State), s.fsm = .idle → t.fsm = .idle → rstFree k s = true → run k s = .next t →
    collapsedRun (acceptedRun k s) (s.setInputs []) = .next (t.setInputs [])

/-- R123 (marked derived in the spec): the state depends on the accepted commands other than NOP alone, not on the
steps at which they were accepted, nor on idle steps. -/
def Obligations.TimingAndNopsDoNotMatter : Prop :=
  ∀ (k k' : Nat) (s s' t t' : State), s.setInputs [] = s'.setInputs [] → s.fsm = .idle →
    rstFree k s = true → rstFree k' s' = true → run k s = .next t → run k' s' = .next t' →
    t.fsm = .idle → t'.fsm = .idle →
    (acceptedRun k s).filter (· ≠ .nop) = (acceptedRun k' s').filter (· ≠ .nop) →
    t.setInputs [] = t'.setInputs []

/-- R122 (marked derived in the spec): in every run from a freshly reset engine that accepts the bytes of m and then
FINALIZE, with idle steps and NOPs anywhere, the digest is Keccak-256 of m by the closed form. -/
def Obligations.DigestIsKeccakOfTheAcceptedBytes : Prop :=
  ∀ (k : Nat) (s t : State) (m : List Byte), s.setInputs [] = State.reset → rstFree k s = true →
    (acceptedRun k s).filter (· ≠ .nop) = m.map .update ++ [.finalize] →
    run k s = .next t → t.digestValid = true →
    t.claimedDigest = some (keccak256 m) ∧ t.digest = digestOfBytes (keccak256 m)

/-- R82, R122 and R124: HASH m, issued by a host that waits, ends from EVERY state in the digest of m, with no fault;
nothing of an earlier message leaks into it. -/
def Obligations.HashFromAnyStateYieldsKeccak : Prop :=
  ∀ (s : State) (m : List Byte),
    ∃ t, runScript (hashLines m) s = .next t ∧ t.digestValid = true ∧ t.err = false ∧ t.cmdReady = true ∧
      t.claimedDigest = some (keccak256 m) ∧ t.digest = digestOfBytes (keccak256 m)

/-- R82 and R73: stream hashing issues the same commands as HASH of the chunks joined, for every chunking. -/
def Obligations.ChunkingLeavesTheCommandsUnchanged : Prop :=
  ∀ chunks : List (List Byte), streamLines chunks = hashLines chunks.flatten

/-- R172, last row: the steps of a whole message presented back to back from reset. -/
def Obligations.MessageTakesTheCountedSteps : Prop :=
  ∀ m : List Byte, scriptSteps (messageLines m) State.reset = m.length + 24 * (m.length / 136) + 25

/-- R122 and C2: the padded message is `n / 136 + 1` whole blocks; its last block is PAD of the remainder and the
others are message bytes. -/
def Obligations.PaddedMessageIsWholeBlocks : Prop :=
  ∀ m : List Byte,
    (paddedMessage m).length = 136 * (m.length / 136 + 1) ∧
    (∀ (q : Nat) (j : Fin 136), q < m.length / 136 →
      (messageBlock (paddedMessage m) q)[j] = m.getD (136 * q + j.val) 0) ∧
    ∀ buf : Buffer, buf.bytes = m.drop (136 * (m.length / 136)) →
      messageBlock (paddedMessage m) (m.length / 136) = pad buf
end

