-- ==== Sys2Proof/Laws/Lanes.lean ====
section
/-! SUPPORT. The small facts about lanes, views and the step mappings that later proofs cite. -/

namespace Sys2Proof.Machine

/-- Reading lane (x,y) of a value built lane by lane. -/
@[simp] theorem lane_ofXY (f : Fin 5 → Fin 5 → Lane) (x y : Fin 5) : lane (ofXY f) x y = f x y := by
  have hx : (x.val + 5 * y.val) % 5 = x.val := by omega
  have hy : (x.val + 5 * y.val) / 5 = y.val := by omega
  simp [lane, ofXY, hx, hy]

/-- The lane with linear index i is the lane at column `i mod 5`, row `i / 5` (R21). -/
theorem getElem_eq_lane (A : Lanes) (i : Nat) (h : i < 25) :
    A[i] = lane A ⟨i % 5, by omega⟩ ⟨i / 5, by omega⟩ := by
  have hi : i % 5 + 5 * (i / 5) = i := by omega
  simp only [lane, hi]

/-- Two 25-lane values with the same lanes are equal. -/
theorem lanes_ext {A B : Lanes} (h : ∀ x y, lane A x y = lane B x y) : A = B := by
  apply Vector.ext
  intro i hi
  rw [getElem_eq_lane A i hi, getElem_eq_lane B i hi, h]

@[simp] theorem lane_zeroLanes (x y : Fin 5) : lane zeroLanes x y = 0 := by
  simp [lane, zeroLanes]

theorem lane_theta (A : Lanes) (x y : Fin 5) : lane (theta A) x y = lane A x y ^^^ thetaDiff A x :=
  lane_ofXY _ x y

theorem lane_rho (A : Lanes) (x y : Fin 5) : lane (rho A) x y = rotl64 (lane A x y) (ROT x y) :=
  lane_ofXY _ x y

theorem lane_pi (A : Lanes) (x y : Fin 5) : lane (pi A) x y = lane A (x + 3 * y) x :=
  lane_ofXY _ x y

theorem lane_chi (A : Lanes) (x y : Fin 5) :
    lane (chi A) x y = lane A x y ^^^ (~~~(lane A (x + 1) y) &&& lane A (x + 2) y) :=
  lane_ofXY _ x y

/-- The rotation of R11 is the library's. -/
theorem rotl64_eq_rotateLeft (a : Lane) (n : Fin 64) : rotl64 a n = a.rotateLeft n.val := by
  rw [BitVec.rotateLeft_def, Nat.mod_eq_of_lt n.isLt]
  by_cases h : n.val = 0
  · simp only [rotl64, h, if_pos, BitVec.shiftLeft_zero, Nat.sub_zero, BitVec.ushiftRight_eq_zero (Nat.le_refl 64)]
    simp
  · simp [rotl64, h]

/-- Bits of a byte of the state space (R51). -/
theorem getLsbD_stateByte (A : Lanes) (k : Fin 200) (j : Nat) :
    (stateByte A k).getLsbD j = (decide (j < 8) && (A[k.val / 8]'(by omega)).getLsbD (8 * (k.val % 8) + j)) := by
  simp [stateByte]

end Sys2Proof.Machine
end

