-- ==== Sys2Proof/Laws/State.lean ====
section
/-! SUPPORT. What each register write leaves in each field: one lemma per field per write. -/

namespace Sys2Proof.Machine.State

variable (s : State)

@[simp] theorem setLanes_lanes (A : Lanes) : (s.setLanes A).lanes = A := rfl
@[simp] theorem setLanes_buf (A : Lanes) : (s.setLanes A).buf = s.buf := rfl
@[simp] theorem setLanes_phase (A : Lanes) : (s.setLanes A).phase = s.phase := rfl
@[simp] theorem setLanes_fsm (A : Lanes) : (s.setLanes A).fsm = s.fsm := rfl
@[simp] theorem setLanes_rnd (A : Lanes) : (s.setLanes A).rnd = s.rnd := rfl
@[simp] theorem setLanes_err (A : Lanes) : (s.setLanes A).err = s.err := rfl
@[simp] theorem setLanes_ecause (A : Lanes) : (s.setLanes A).ecause = s.ecause := rfl
@[simp] theorem setLanes_inputs (A : Lanes) : (s.setLanes A).inputs = s.inputs := rfl

@[simp] theorem setBuf_lanes (b : Buffer) : (s.setBuf b).lanes = s.lanes := rfl
@[simp] theorem setBuf_buf (b : Buffer) : (s.setBuf b).buf = b := rfl
@[simp] theorem setBuf_phase (b : Buffer) : (s.setBuf b).phase = s.phase := rfl
@[simp] theorem setBuf_fsm (b : Buffer) : (s.setBuf b).fsm = s.fsm := rfl
@[simp] theorem setBuf_rnd (b : Buffer) : (s.setBuf b).rnd = s.rnd := rfl
@[simp] theorem setBuf_err (b : Buffer) : (s.setBuf b).err = s.err := rfl
@[simp] theorem setBuf_ecause (b : Buffer) : (s.setBuf b).ecause = s.ecause := rfl
@[simp] theorem setBuf_inputs (b : Buffer) : (s.setBuf b).inputs = s.inputs := rfl

@[simp] theorem setPhase_lanes (p : Phase) : (s.setPhase p).lanes = s.lanes := rfl
@[simp] theorem setPhase_buf (p : Phase) : (s.setPhase p).buf = s.buf := rfl
@[simp] theorem setPhase_phase (p : Phase) : (s.setPhase p).phase = p := rfl
@[simp] theorem setPhase_fsm (p : Phase) : (s.setPhase p).fsm = s.fsm := rfl
@[simp] theorem setPhase_rnd (p : Phase) : (s.setPhase p).rnd = s.rnd := rfl
@[simp] theorem setPhase_err (p : Phase) : (s.setPhase p).err = s.err := rfl
@[simp] theorem setPhase_ecause (p : Phase) : (s.setPhase p).ecause = s.ecause := rfl
@[simp] theorem setPhase_inputs (p : Phase) : (s.setPhase p).inputs = s.inputs := rfl

@[simp] theorem setSequencer_lanes (f : Fsm) (r : Fin 24) : (s.setSequencer f r).lanes = s.lanes := rfl
@[simp] theorem setSequencer_buf (f : Fsm) (r : Fin 24) : (s.setSequencer f r).buf = s.buf := rfl
@[simp] theorem setSequencer_phase (f : Fsm) (r : Fin 24) : (s.setSequencer f r).phase = s.phase := rfl
@[simp] theorem setSequencer_fsm (f : Fsm) (r : Fin 24) : (s.setSequencer f r).fsm = f := rfl
@[simp] theorem setSequencer_rnd (f : Fsm) (r : Fin 24) : (s.setSequencer f r).rnd = r := rfl
@[simp] theorem setSequencer_err (f : Fsm) (r : Fin 24) : (s.setSequencer f r).err = s.err := rfl
@[simp] theorem setSequencer_ecause (f : Fsm) (r : Fin 24) : (s.setSequencer f r).ecause = s.ecause := rfl
@[simp] theorem setSequencer_inputs (f : Fsm) (r : Fin 24) : (s.setSequencer f r).inputs = s.inputs := rfl

@[simp] theorem setFault_lanes (e : Bool) (c : ECause) : (s.setFault e c).lanes = s.lanes := rfl
@[simp] theorem setFault_buf (e : Bool) (c : ECause) : (s.setFault e c).buf = s.buf := rfl
@[simp] theorem setFault_phase (e : Bool) (c : ECause) : (s.setFault e c).phase = s.phase := rfl
@[simp] theorem setFault_fsm (e : Bool) (c : ECause) : (s.setFault e c).fsm = s.fsm := rfl
@[simp] theorem setFault_rnd (e : Bool) (c : ECause) : (s.setFault e c).rnd = s.rnd := rfl
@[simp] theorem setFault_err (e : Bool) (c : ECause) : (s.setFault e c).err = e := rfl
@[simp] theorem setFault_ecause (e : Bool) (c : ECause) : (s.setFault e c).ecause = c := rfl
@[simp] theorem setFault_inputs (e : Bool) (c : ECause) : (s.setFault e c).inputs = s.inputs := rfl

@[simp] theorem setInputs_lanes (l : List PortInput) : (s.setInputs l).lanes = s.lanes := rfl
@[simp] theorem setInputs_buf (l : List PortInput) : (s.setInputs l).buf = s.buf := rfl
@[simp] theorem setInputs_phase (l : List PortInput) : (s.setInputs l).phase = s.phase := rfl
@[simp] theorem setInputs_fsm (l : List PortInput) : (s.setInputs l).fsm = s.fsm := rfl
@[simp] theorem setInputs_rnd (l : List PortInput) : (s.setInputs l).rnd = s.rnd := rfl
@[simp] theorem setInputs_err (l : List PortInput) : (s.setInputs l).err = s.err := rfl
@[simp] theorem setInputs_ecause (l : List PortInput) : (s.setInputs l).ecause = s.ecause := rfl
@[simp] theorem setInputs_inputs (l : List PortInput) : (s.setInputs l).inputs = l := rfl

/-- A state is its registers together with its inputs. -/
theorem setInputs_self : s.setInputs s.inputs = s := rfl

@[simp] theorem setInputs_setInputs (l l' : List PortInput) : (s.setInputs l).setInputs l' = s.setInputs l' := rfl

end Sys2Proof.Machine.State
end

