-- ==== Sys2Proof/Laws/Ops.lean ====
section
/-! SUPPORT. One spec lemma per shared operation: everything it can do. -/

namespace Sys2Proof.Machine

/-- What taking the protocol fault can do (R143, R144). -/
theorem raiseProtocolFault_cases (c : ECause) (s : State) :
    (s.err = true ∧ raiseProtocolFault c s = s) ∨
    (s.err = false ∧ raiseProtocolFault c s = s.setFault true c) := by
  cases h : s.err
  · exact .inr ⟨rfl, by simp [raiseProtocolFault, h]⟩
  · exact .inl ⟨rfl, by simp [raiseProtocolFault, h]⟩

@[simp] theorem raiseProtocolFault_lanes (c : ECause) (s : State) :
    (raiseProtocolFault c s).lanes = s.lanes := by
  unfold raiseProtocolFault; split <;> rfl

@[simp] theorem raiseProtocolFault_buf (c : ECause) (s : State) : (raiseProtocolFault c s).buf = s.buf := by
  unfold raiseProtocolFault; split <;> rfl

@[simp] theorem raiseProtocolFault_phase (c : ECause) (s : State) :
    (raiseProtocolFault c s).phase = s.phase := by
  unfold raiseProtocolFault; split <;> rfl

@[simp] theorem raiseProtocolFault_fsm (c : ECause) (s : State) : (raiseProtocolFault c s).fsm = s.fsm := by
  unfold raiseProtocolFault; split <;> rfl

@[simp] theorem raiseProtocolFault_rnd (c : ECause) (s : State) : (raiseProtocolFault c s).rnd = s.rnd := by
  unfold raiseProtocolFault; split <;> rfl

@[simp] theorem raiseProtocolFault_inputs (c : ECause) (s : State) :
    (raiseProtocolFault c s).inputs = s.inputs := by
  unfold raiseProtocolFault; split <;> rfl

/-- The mark is set whatever it was. -/
@[simp] theorem raiseProtocolFault_err (c : ECause) (s : State) : (raiseProtocolFault c s).err = true := by
  unfold raiseProtocolFault; split <;> simp_all

/-- Absorbing and starting, as one record. -/
theorem absorbAndStart_eq (block : Block) (f : Fsm) (s : State) :
    absorbAndStart block f s =
      { s with lanes := absorbBlock s.lanes block, buf := Buffer.empty, fsm := f, rnd := 0 } := by
  unfold absorbAndStart State.setLanes State.setBuf State.setSequencer
  rfl

/-- The cleared engine is the reset state with the inputs kept (R41, R114, R160). -/
theorem clearEngine_eq (s : State) : clearEngine s = State.reset.setInputs s.inputs := by
  unfold clearEngine State.reset zeroLanes State.setLanes State.setBuf State.setPhase State.setSequencer
    State.setFault State.setInputs
  rfl

/-- A round step below round 23 (R117). -/
theorem roundStep_of_lt (r : Fin 24) (s : State) (h : r.val < 23) :
    roundStep r s = { s with lanes := keccakRound s.lanes r, rnd := ⟨r.val + 1, by omega⟩ } := by
  have h' : ¬ r.val = 23 := by omega
  simp only [roundStep, h', dif_neg, not_false_eq_true, State.setLanes, State.setSequencer]

/-- The round step with index 23 (R117). -/
theorem roundStep_last (r : Fin 24) (s : State) (h : r.val = 23) :
    roundStep r s = { s with lanes := keccakRound s.lanes r, fsm := .idle, rnd := 0 } := by
  simp only [roundStep, h, dif_pos, State.setLanes, State.setSequencer]

/-- What a round step leaves in the registers no round writes. -/
@[simp] theorem roundStep_frame (r : Fin 24) (s : State) :
    (roundStep r s).buf = s.buf ∧ (roundStep r s).phase = s.phase ∧ (roundStep r s).err = s.err ∧
      (roundStep r s).ecause = s.ecause ∧ (roundStep r s).inputs = s.inputs := by
  by_cases h : r.val = 23
  · rw [roundStep_last r s h]; simp
  · rw [roundStep_of_lt r s (by omega)]; simp

/-- Lanes of the rate after a block XOR (R116). -/
theorem absorbBlock_rate (A : Lanes) (block : Block) (i : Nat) (h : i < 17) :
    (absorbBlock A block)[i] = A[i] ^^^ blockLane block i h := by
  simp [absorbBlock, h]

/-- Lanes of the capacity after a block XOR (R116). -/
theorem absorbBlock_capacity (A : Lanes) (block : Block) (i : Nat) (h : i < 25) (hc : 17 ≤ i) :
    (absorbBlock A block)[i] = A[i] := by
  have h' : ¬ i < 17 := by omega
  simp [absorbBlock, h']

@[simp] theorem Buffer.empty_blen : Buffer.empty.blen = 0 := rfl

@[simp] theorem Buffer.empty_bytes : Buffer.empty.bytes = [] := rfl

theorem Buffer.blen_le (b : Buffer) : b.blen ≤ 135 := b.bound

@[simp] theorem Buffer.push_bytes (b : Buffer) (x : Byte) (h : b.blen < 135) :
    (b.push x h).bytes = b.bytes ++ [x] := rfl

@[simp] theorem Buffer.push_blen (b : Buffer) (x : Byte) (h : b.blen < 135) :
    (b.push x h).blen = b.blen + 1 := by
  simp [Buffer.blen]

end Sys2Proof.Machine
end

