-- ==== Sys2Proof/Laws/PerInstr.lean ====
section
/-! SUPPORT. Statements made for every constructor of Instr: the word an instruction encodes to lies in its own row
of the opcode table (`word & mask = match`, R71 and R75). -/

namespace Sys2Proof.Laws.EncodingRow

/-- The number of a word, bit 0 least significant. -/
def wordNumber : PortWord → Nat
  | .cmd cw => cw.toNat
  | .seq sw => sw.toNat

/-- `match` of the instruction's row. -/
def rowMatch : Instr → Nat
  | .nop => 0x000
  | .update _ => 0x100
  | .finalize => 0x200
  | .reset => 0x300
  | .permA _ => 0x20
  | .permF _ => 0x40

/-- `mask` of the instruction's row. -/
def rowMask : Instr → Nat
  | .nop => 0x300
  | .update _ => 0x300
  | .finalize => 0x300
  | .reset => 0x300
  | .permA _ => 0x60
  | .permF _ => 0x60

/-- The encoded word satisfies its row's `match` under its row's `mask`. -/
def Statement (i : Instr) : Prop := wordNumber (encode i) &&& rowMask i = rowMatch i

theorem nop : Statement .nop := by unfold Statement; decide

theorem update (b : Byte) : Statement (.update b) := by
  unfold Statement; revert b; decide

theorem finalize : Statement .finalize := by unfold Statement; decide

theorem reset : Statement .reset := by unfold Statement; decide

theorem permA (rnd : BitVec 5) : Statement (.permA rnd) := by
  unfold Statement; revert rnd; decide

theorem permF (rnd : BitVec 5) : Statement (.permF rnd) := by
  unfold Statement; revert rnd; decide

end Sys2Proof.Laws.EncodingRow
end

