-- ==== Sys2Proof/Laws/Step.lean ====
section
/-! SUPPORT. Inversion of the meanings and of the selection: what each can answer, said once. -/

namespace Sys2Proof.Machine

/-- Two next states are equal when the answers are. -/
theorem next_inj {s t : State} (h : (Host.Outcome.next s : Outcome) = .next t) : s = t := by
  injection h

theorem exec_nop (s : State) : exec .nop s = execNop s := rfl
theorem exec_update (b : Byte) (s : State) : exec (.update b) s = execUpdate b s := rfl
theorem exec_finalize (s : State) : exec .finalize s = execFinalize s := rfl
theorem exec_reset (s : State) : exec .reset s = execReset s := rfl
theorem exec_permA (r : BitVec 5) (s : State) : exec (.permA r) s = execPermA r s := rfl
theorem exec_permF (r : BitVec 5) (s : State) : exec (.permF r) s = execPermF r s := rfl

/-- The three ways UPDATE ends (R112). -/
theorem execUpdate_cases {b : Byte} {s t : State} (h : execUpdate b s = .next t) :
    (s.phase = .spent ∧ t = raiseProtocolFault .updateInSpent s) ∨
    (s.phase ≠ .spent ∧ ∃ hb : s.buf.blen < 135, t = (s.setPhase .absorbing).setBuf (s.buf.push b hb)) ∨
    (s.phase ≠ .spent ∧ s.buf.blen = 135 ∧
      t = absorbAndStart (fillBlock s.buf b) .permA (s.setPhase .absorbing)) := by
  unfold execUpdate at h
  split at h
  · rename_i hs
    exact .inl ⟨hs, (next_inj h).symm⟩
  · rename_i hs
    split at h
    · rename_i hb
      exact .inr (.inl ⟨hs, hb, (next_inj h).symm⟩)
    · rename_i hb
      have := s.buf.blen_le
      exact .inr (.inr ⟨hs, by omega, (next_inj h).symm⟩)

/-- The two ways FINALIZE ends (R113). -/
theorem execFinalize_cases {s t : State} (h : execFinalize s = .next t) :
    (s.phase = .spent ∧ t = raiseProtocolFault .finalizeInSpent s) ∨
    (s.phase ≠ .spent ∧ t = absorbAndStart (pad s.buf) .permF (s.setPhase .absorbing)) := by
  unfold execFinalize at h
  split at h
  · rename_i hs
    exact .inl ⟨hs, (next_inj h).symm⟩
  · rename_i hs
    exact .inr ⟨hs, (next_inj h).symm⟩

/-- The one way PERM.A ends in a next state (R117). -/
theorem execPermA_cases {r : BitVec 5} {s t : State} (h : execPermA r s = .next t) :
    ∃ hr : r.toNat < 24, t = roundStep ⟨r.toNat, hr⟩ s := by
  unfold execPermA at h
  split at h
  · rename_i hr
    exact ⟨hr, (next_inj h).symm⟩
  · cases h

/-- The two ways PERM.F ends in a next state (R119). -/
theorem execPermF_cases {r : BitVec 5} {s t : State} (h : execPermF r s = .next t) :
    ∃ hr : r.toNat < 24,
      (r.toNat = 23 ∧ t = (roundStep ⟨r.toNat, hr⟩ s).setPhase .spent) ∨
      (r.toNat < 23 ∧ t = roundStep ⟨r.toNat, hr⟩ s) := by
  unfold execPermF at h
  split at h
  · rename_i hr
    split at h
    · rename_i h23
      exact ⟨hr, .inl ⟨h23, (next_inj h).symm⟩⟩
    · rename_i h23
      exact ⟨hr, .inr ⟨by omega, (next_inj h).symm⟩⟩
  · cases h

/-- The sequencer word of a running PERM_A selects PERM.A with the register's round index (R75). -/
theorem decodeSeq_seqWord_permA (r : Fin 24) : decodeSeq (seqWord .permA r) = .ok (.permA (roundBits r)) := by
  revert r; decide

/-- The sequencer word of a running PERM_F selects PERM.F with the register's round index (R75). -/
theorem decodeSeq_seqWord_permF (r : Fin 24) : decodeSeq (seqWord .permF r) = .ok (.permF (roundBits r)) := by
  revert r; decide

@[simp] theorem roundBits_toNat (r : Fin 24) : (roundBits r).toNat = r.val := by
  revert r; decide

/-- What the sampling of the inputs leaves: the registers as they were. -/
@[simp] theorem afterSample_frame (s : State) :
    s.afterSample.lanes = s.lanes ∧ s.afterSample.buf = s.buf ∧ s.afterSample.phase = s.phase ∧
      s.afterSample.fsm = s.fsm ∧ s.afterSample.rnd = s.rnd ∧ s.afterSample.err = s.err ∧
      s.afterSample.ecause = s.ecause ∧ s.afterSample.inputs = s.inputs.tail :=
  ⟨rfl, rfl, rfl, rfl, rfl, rfl, rfl, rfl⟩

/-- The five ways a step with these inputs can go (R110). -/
theorem engineStep_cases (p : PortInput) (s : State) :
    (p.rst = true ∧ engineStep p s = .next (hardReset s)) ∨
    (p.rst = false ∧ s.fsm = .permA ∧ engineStep p s = execPermA (roundBits s.rnd) s) ∨
    (p.rst = false ∧ s.fsm = .permF ∧ engineStep p s = execPermF (roundBits s.rnd) s) ∨
    (p.rst = false ∧ s.fsm = .idle ∧ p.cmdValid = true ∧ engineStep p s = exec (decodeCmd p.word) s) ∨
    (p.rst = false ∧ s.fsm = .idle ∧ p.cmdValid = false ∧ engineStep p s = .next s) := by
  cases hr : p.rst
  · cases hf : s.fsm
    · cases hv : p.cmdValid
      · simp [engineStep, selected, hr, hf, hv]
      · simp [engineStep, selected, hr, hf, hv]
    · simp [engineStep, selected, hr, hf, decodeSeq_seqWord_permA, exec_permA]
    · simp [engineStep, selected, hr, hf, decodeSeq_seqWord_permF, exec_permF]
  · simp [engineStep, hr]

end Sys2Proof.Machine
end

