-- ==== Sys2Proof/Laws/Trace.lean ====
section
/-! SUPPORT. Runs: their equations, their composition, and the induction along a run, each said once. -/

namespace Sys2Proof.Machine

@[simp] theorem run_zero (s : State) : run 0 s = .next s := rfl

/-- One step, then the rest. -/
theorem run_succ (k : Nat) (s : State) :
    run (k + 1) s = (match step s with | .next t => run k t | .fault f => .fault f | .refused r => .refused r) := rfl

/-- A run goes on from the state a step answers. -/
theorem run_succ_of_step {s t : State} (h : step s = .next t) (k : Nat) : run (k + 1) s = run k t := by
  rw [run_succ, h]

/-- A run of `j + k` steps is a run of `j` steps and then of `k`. -/
theorem run_add {j : Nat} {s t : State} (k : Nat) (h : run j s = .next t) : run (j + k) s = run k t := by
  induction j generalizing s with
  | zero => rw [Nat.zero_add, next_inj h]
  | succ j ih =>
    rw [Nat.succ_add, run_succ]
    rw [run_succ] at h
    cases hs : step s with
    | next u => rw [hs] at h; exact ih h
    | fault f => rw [hs] at h; cases h
    | refused r => rw [hs] at h; cases h

/-- The host's run after a step that answers a next state, for any machine. -/
theorem core_run_next (M : Host.Core) (k : Nat) {s t : M.State} (h : M.step s = .next t) :
    M.run (k + 1) s = M.run k t := by
  rw [Host.Core.run.eq_def]; simp only [h]

theorem core_run_fault (M : Host.Core) (k : Nat) {s : M.State} {f : M.Fault} (h : M.step s = .fault f) :
    M.run (k + 1) s = .fault f := by
  rw [Host.Core.run.eq_def]; simp only [h]

theorem core_run_refused (M : Host.Core) (k : Nat) {s : M.State} {r : M.Refusal} (h : M.step s = .refused r) :
    M.run (k + 1) s = .refused r := by
  rw [Host.Core.run.eq_def]; simp only [h]

/-- The runs of Machine/Trace.lean are the runs of the host's machine. -/
theorem run_eq_core_run (k : Nat) (s : State) : run k s = Sys2Proof.core.run k s := by
  induction k generalizing s with
  | zero => rfl
  | succ k ih =>
    cases hs : step s with
    | next t => exact (run_succ_of_step hs k).trans ((ih t).trans (core_run_next Sys2Proof.core k hs).symm)
    | fault f =>
      rw [run_succ, hs]
      exact (core_run_fault Sys2Proof.core k hs).symm
    | refused r =>
      rw [run_succ, hs]
      exact (core_run_refused Sys2Proof.core k hs).symm

/-- What holds at the start and is kept by every step holds at the end of every run. -/
theorem run_induction {P : State → Prop} (hstep : ∀ s t, P s → step s = .next t → P t) {k : Nat} {s t : State}
    (h0 : P s) (h : run k s = .next t) : P t := by
  induction k generalizing s with
  | zero => rwa [← next_inj h]
  | succ k ih =>
    rw [run_succ] at h
    cases hs : step s with
    | next u => rw [hs] at h; exact ih (hstep s u h0 hs) h
    | fault f => rw [hs] at h; cases h
    | refused r => rw [hs] at h; cases h

@[simp] theorem acceptedRun_zero (s : State) : acceptedRun 0 s = [] := rfl

/-- The commands accepted from the state a step answers follow this step's. -/
theorem acceptedRun_succ_of_step {s t : State} (h : step s = .next t) (k : Nat) :
    acceptedRun (k + 1) s = s.acceptedCmd.toList ++ acceptedRun k t := by
  rw [acceptedRun, h]

@[simp] theorem rstFree_zero (s : State) : rstFree 0 s = true := by simp [rstFree]

/-- `rst` is free of the next `k + 1` steps when it is 0 in the next and free of the `k` after it. -/
theorem rstFree_succ (k : Nat) (s : State) :
    rstFree (k + 1) s = (!s.sampled.rst && rstFree k s.afterSample) := by
  cases h : s.inputs with
  | nil => simp [rstFree, State.sampled, State.afterSample, h, PortInput.idle]
  | cons p l => simp [rstFree, State.sampled, State.afterSample, h]

end Sys2Proof.Machine
end

