-- ==== Sys2Proof/Tests/Slice0.lean ====
section
/-! SUPPORT. The model's own tests. Expected values come from spec/ (the vector's name stands in each comment), none
from the model. Below them, for each obligation with hypotheses, a concrete state that meets them. -/

set_option Elab.async false

namespace Sys2Proof.Tests

open Sys2Proof.Machine

/-! ## Small states -/

/-- The pattern state P of 95_test_vectors.md: `S[k] = k`. -/
def pattern : Lanes :=
  Vector.ofFn fun i : Fin 25 => BitVec.ofNat 64 (0x0706050403020100 + 0x0808080808080808 * i.val)

/-- A buffer of 135 bytes, `BUF[k] = k` (program P3, step 135). -/
def fullBuffer : Buffer := ⟨(List.range 135).map fun k => BitVec.ofNat 8 k, by simp⟩

/-- The buffer of "abc" (program P2, step 3). -/
def abcBuffer : Buffer := ⟨[0x61, 0x62, 0x63], by decide⟩

/-- Absorbing, with a buffer. -/
def absorbingState (b : Buffer) : State := { State.reset with phase := .absorbing, buf := b }

/-- Spent, with a fault mark. -/
def spentState (e : Bool) (c : ECause) : State := { State.reset with phase := .spent, err := e, ecause := c }

/-- A permutation running on the lanes given. -/
def busyState (f : Fsm) (r : Fin 24) (A : Lanes) : State :=
  { State.reset with phase := .absorbing, fsm := f, rnd := r, lanes := A }

/-- A value of the next state, if there is one. -/
def after {α : Type} (o : Outcome) (f : State → α) : Option α :=
  match o with
  | .next t => some (f t)
  | .fault _ => none
  | .refused _ => none

/-! ## Well-formedness: each check refuses an ill-formed term -/

theorem test_permA_round_24_ill_formed : ¬WellFormed (.permA 24) := by decide
theorem test_permF_round_31_ill_formed : ¬WellFormed (.permF 31) := by decide
theorem test_permA_round_23_well_formed : WellFormed (.permA 23) := by decide

/-! ## Decoding: words written out bit by bit from R70, R71, R75 -/

/-- T-CMD `0A5`. -/
theorem test_decode_nop : decodeCmd 0b00_10100101#10 = .nop := by decide
/-- T-CMD `161`. -/
theorem test_decode_update : decodeCmd 0b01_01100001#10 = .update 0x61 := by decide
/-- T-CMD `2FF`. -/
theorem test_decode_finalize : decodeCmd 0b10_11111111#10 = .finalize := by decide
/-- T-CMD `37E`. -/
theorem test_decode_reset : decodeCmd 0b11_01111110#10 = .reset := by decide
/-- R75: `fsm` = 1, `rnd` = 22. -/
theorem test_decode_permA : decodeSeq 0b01_10110#7 = .ok (.permA 22) := by decide
/-- R75: `fsm` = 2, `rnd` = 0. -/
theorem test_decode_permF : decodeSeq 0b10_00000#7 = .ok (.permF 0) := by decide
/-- R75: idle, the unreachable `fsm`, the unreachable rounds. -/
theorem test_decode_rejects :
    decodeSeq 0b00_00000#7 = .error .sequencerIdle ∧ decodeSeq 0b11_00001#7 = .error .fsmUnreachable ∧
      decodeSeq 0b01_11000#7 = .error .roundUnreachable ∧ decodeTableWord 16 0x400 = none := by decide
/-- The table's rows, one word each. -/
theorem test_table_words :
    [decodeTableWord 16 0x000, decodeTableWord 16 0x100, decodeTableWord 16 0x200, decodeTableWord 16 0x300,
      decodeTableWord 8 0x20, decodeTableWord 8 0x40] =
    [some .nop, some (.update 0), some .finalize, some .reset, some (.permA 0), some (.permF 0)] := by decide
/-- R81: canonical words. -/
theorem test_encode :
    encode .nop = .cmd 0x000 ∧ encode (.update 0x61) = .cmd 0x161 ∧ encode .finalize = .cmd 0x200 ∧
      encode .reset = .cmd 0x300 ∧ encode (.permA 5) = .seq 0x25 ∧ encode (.permF 23) = .seq 0x57 := by decide

/-! ## Parameters and notation -/

/-- R8. -/
theorem test_parameter_identities :
    Config.lanes * Config.laneBits = Config.stateBits ∧ Config.rate * 8 = Config.rateBits ∧
      Config.rateBits + Config.capacityBits = Config.stateBits ∧ Config.rate / 8 = 17 ∧
      Config.digestLen ≤ Config.rate ∧ Config.rounds = 24 := by decide
/-- R78: the three forms of a data byte, and a comment. -/
theorem test_parse_update :
    parseLine "UPDATE 0x61  ; one byte".toList = some (some (.cmd 0x161)) ∧
      parseLine "UPDATE 97".toList = some (some (.cmd 0x161)) ∧
      parseLine "UPDATE 'a'".toList = some (some (.cmd 0x161)) ∧ parseLine "UPDATE 256".toList = none := by
  decide
/-- R80, R81. -/
theorem test_listing : listingLine 0x2FF = "2FF  FINALIZE  ; data 0xFF ignored" := by decide

/-! ## The step mappings -/

/-- T-THETA-2: the top bit of A[2,3] wraps to bit 0 in column 1. -/
theorem test_theta_wraps :
    (theta (zeroLanes.set 17 0x8000000000000000))[1] = 0x0000000000000001#64 ∧
      (theta (zeroLanes.set 17 0x8000000000000000))[3] = 0x8000000000000000#64 ∧
      (theta (zeroLanes.set 17 0x8000000000000000))[2] = 0#64 := by decide
/-- T-RHO-2. -/
theorem test_rho_wraps : (rho (zeroLanes.set 2 0x8000000000000001))[2] = 0x6000000000000000#64 := by decide
/-- T-PI-1. -/
theorem test_pi_positions :
    (pi (Vector.ofFn fun i : Fin 25 => BitVec.ofNat 64 i.val)).toList.map BitVec.toNat =
      [0, 6, 12, 18, 24, 3, 9, 10, 16, 22, 1, 7, 13, 19, 20, 4, 5, 11, 17, 23, 2, 8, 14, 15, 21] := by decide
/-- T-CHI-2, row 2. -/
theorem test_chi_mixed_row :
    let A := ((((zeroLanes.set 10 0xFFFF0000FFFF0000).set 11 0x00FF00FF00FF00FF).set 12
      0x0F0F0F0F0F0F0F0F).set 13 0x3333333333333333).set 14 0x5555555555555555
    (chi A)[10] = 0xF0FF0F00F0FF0F00#64 ∧ (chi A)[13] = 0x9999333399993333#64 ∧
      (chi A)[14] = 0x555555AA555555AA#64 ∧ (chi A)[9] = 0#64 := by decide
/-- T-IOTA-1. -/
theorem test_iota_last_round : (iota pattern 23)[0] = 0x8706050483028108#64 ∧ (iota pattern 23)[1] = pattern[1] := by
  decide

/-! ## The operations, one step each -/

/-- T-CMD `161` in the reset state. -/
theorem test_update_first_byte :
    after (exec (.update 0x61) State.reset) (fun t => (t.buf.bytes, t.phase, t.fsm)) =
      some ([0x61], .absorbing, .idle) := by decide
/-- Program P3, step 136: the block `00 01 .. 87` absorbed into the zero state. -/
theorem test_update_fills_the_block :
    after (exec (.update 0x87) (absorbingState fullBuffer))
        (fun t => (t.lanes[0], t.lanes[16], t.lanes[17], t.buf.blen, t.fsm)) =
      some (0x0706050403020100, 0x8786858483828180, 0, 0, .permA) := by decide +kernel
/-- Program P1, step 1: the padded block of the empty message. -/
theorem test_finalize_empty_message :
    after (exec .finalize State.reset) (fun t => (t.lanes[0], t.lanes[16], t.lanes[1], t.fsm, t.phase)) =
      some (1, 0x8000000000000000, 0, .permF, .absorbing) := by decide +kernel
/-- Program P2, step 4: "abc". -/
theorem test_finalize_abc :
    after (exec .finalize (absorbingState abcBuffer)) (fun t => (t.lanes[0], t.lanes[16], t.buf.blen)) =
      some (0x0000000001636261, 0x8000000000000000, 0) := by decide +kernel
/-- T-PAD-5: one byte carries both padding bits. -/
theorem test_pad_135 : (pad fullBuffer)[135] = 0x81#8 ∧ (pad fullBuffer)[134] = 134#8 := by decide +kernel
/-- Program P5, step 29. -/
theorem test_reset_clears_the_fault :
    exec .reset (spentState true .finalizeInSpent) = .next State.reset := by rfl
/-- T-FAULT-1: the cause of FINALIZE in SPENT, and nothing buffered or started. -/
theorem test_finalize_in_spent :
    after (exec .finalize (spentState false .none)) (fun t => (t.err, t.ecause, t.phase, t.fsm)) =
      some (true, .finalizeInSpent, .spent, .idle) := by decide
/-- T-FAULT-2: the first cause is kept. -/
theorem test_second_fault_keeps_cause :
    after (exec (.update 0x55) (spentState true .finalizeInSpent)) (fun t => (t.err, t.ecause, t.buf.blen)) =
      some (true, .finalizeInSpent, 0) := by decide
/-- T-ROUND-1, `ir` = 0. -/
theorem test_permA_round_of_pattern :
    after (exec (.permA 0) (busyState .permA 0 pattern)) (fun t => (t.lanes[0], t.lanes[24], t.fsm, t.rnd)) =
      some (0x7E0C1AC8F6C4D241, 0xDBD5CDC6FFF3EBE2, .permA, 1) := by decide
/-- T-ROUND-1, `ir` = 23. -/
theorem test_permF_last_round_of_pattern :
    after (exec (.permF 23) (busyState .permF 23 pattern)) (fun t => (t.lanes[0], t.phase, t.fsm, t.rnd)) =
      some (0xFE0C1AC876C45248, .spent, .idle, 0) := by decide
/-- T-SQZ byte order, end state of program P2: `L[0]` and the first digest bytes. -/
theorem test_digest_byte_order :
    (squeeze (zeroLanes.set 0 0x4FA945EA7A65034E)).take 8 =
      [0x4e, 0x03, 0x65, 0x7a, 0xea, 0x45, 0xa9, 0x4f] := by decide
/-- Program P6, step 15: `rst` wins over a running permutation and a presented command. -/
theorem test_rst_wins :
    step { busyState .permF 10 pattern with inputs := [⟨true, true, 1, 0x61⟩] } = .next State.reset := by rfl
/-- T-BUSY-1: a command presented during a permutation is not accepted. -/
theorem test_busy_command_waits :
    after (step { busyState .permA 0 zeroLanes with inputs := [PortInput.present 0x200] })
        (fun t => (t.fsm, t.rnd, t.phase, t.lanes[0])) =
      some (.permA, 1, .absorbing, 1) := by decide
/-- T-GAP-1, step 5: `cmd_valid` = 0 with a word on the wires. -/
theorem test_not_valid_is_no_command :
    step { State.reset with inputs := [⟨false, false, 1, 0x99⟩] } = .next State.reset := by rfl

/-! ## Witnesses: a concrete state and operands that meet the hypotheses of each obligation, clause by clause -/

/-- A buffer of 134 bytes. -/
def buffer134 : Buffer := ⟨List.replicate 134 0, by simp⟩

/-- The reset state with the inputs of the coming steps. -/
def readyState (l : List PortInput) : State := State.reset.setInputs l

/-- A spent state whose host presents a command word. -/
def spentPresenting (cw : CmdWord) : State := (spentState false .none).setInputs [PortInput.present cw]

theorem witness_EncodedOperationDecodesToItself : WellFormed (.permA 23) ∧ WellFormed (.update 0xFF) := by decide

theorem witness_CommandWordSelectsItsRow :
    0x0FF#10 &&& 0x300#10 = 0x000#10 ∧ 0x100#10 &&& 0x300#10 = 0x100#10 ∧ 0x2FF#10 &&& 0x300#10 = 0x200#10 ∧
      0x300#10 &&& 0x300#10 = 0x300#10 := by decide

theorem witness_IgnoredDataIsDroppedAndCanonicalised : (0b01#2 : BitVec 2) = 0b01#2 ∧ 0b11#2 ≠ 0b01#2 := by decide

theorem witness_SequencerWordSelectsItsRow :
    (0b01#2 = 0b01#2 ∧ (23#5).toNat ≤ 23) ∧ (0b10#2 = 0b10#2 ∧ (0#5).toNat ≤ 23) ∧
      ¬((0b01#2 = 0b01#2 ∨ 0b01#2 = 0b10#2) ∧ (24#5).toNat ≤ 23) ∧
      ¬((0b11#2 = 0b01#2 ∨ 0b11#2 = 0b10#2) ∧ (0#5).toNat ≤ 23) := by decide

theorem witness_PlacedWordIsRunByTheNextStep :
    decodeTableWord 8 0x37 = some (.permA 23) ∧ decodeTableWord 16 0x1FF = some (.update 0xFF) := by decide

theorem witness_StepRunsTheSelectedOperation :
    (readyState [PortInput.hardReset]).sampled.rst = true ∧
      ((busyState .permA 0 zeroLanes).sampled.rst = false ∧ (busyState .permA 0 zeroLanes).fsm = .permA) ∧
      ((busyState .permF 23 zeroLanes).sampled.rst = false ∧ (busyState .permF 23 zeroLanes).fsm = .permF) ∧
      ((readyState [PortInput.present 0x161]).sampled.rst = false ∧
        (readyState [PortInput.present 0x161]).fsm = .idle ∧
        (readyState [PortInput.present 0x161]).sampled.cmdValid = true) ∧
      (State.reset.sampled.rst = false ∧ State.reset.fsm = .idle ∧ State.reset.sampled.cmdValid = false) := by
  decide

theorem witness_HardResetWritesEveryRegister :
    ({ busyState .permF 10 pattern with inputs := [⟨true, true, 1, 0x61⟩] } : State).sampled.rst = true := by decide

theorem witness_OnlyAcceptingStepsReadTheCommand :
    ((PortInput.present 0x161).rst = false ∧ (PortInput.present 0x161).cmdValid = true ∧
        State.reset.cmdReady = true) ∧
      (¬((PortInput.present 0x200).rst = false ∧ (PortInput.present 0x200).cmdValid = true ∧
          (busyState .permA 0 zeroLanes).cmdReady = true) ∧
        PortInput.idle.rst = (PortInput.present 0x200).rst ∧
        ((busyState .permA 0 zeroLanes).cmdReady = true →
          PortInput.idle.cmdValid = (PortInput.present 0x200).cmdValid)) := by decide

theorem witness_UpdateBuffersOrAbsorbs :
    (spentState false .none).phase = .spent ∧
      ((absorbingState buffer134).phase ≠ .spent ∧ (absorbingState buffer134).buf.blen < 135) ∧
      ((absorbingState fullBuffer).phase ≠ .spent ∧ (absorbingState fullBuffer).buf.blen = 135) := by
  decide +kernel

theorem witness_FinalizeAbsorbsThePaddedBlock :
    (spentState false .none).phase = .spent ∧ (absorbingState fullBuffer).phase ≠ .spent := by decide

theorem witness_PadLaysOutTheBlock :
    (0 < abcBuffer.blen) ∧ (3 = abcBuffer.blen ∧ 3 ≠ 135) ∧ (abcBuffer.blen < 134 ∧ 134 ≠ 135) ∧
      fullBuffer.blen = 135 ∧ buffer134.blen < 135 ∧ 134 = buffer134.blen := by decide +kernel

theorem witness_AbsorbXorsTheRateBytes : (135 : Nat) < 136 ∧ ¬(136 : Nat) < 136 ∧ 17 ≤ (17 : Fin 25).val := by decide

theorem witness_ChiCombinesEachRow : (63 : Nat) < 64 := by decide

theorem witness_PermADoesOneRound : (23#5).toNat = 23 ∧ (22#5).toNat < 23 := by decide

theorem witness_PermFDoesOneRoundAndFinishesSpent : (23#5).toNat = 23 ∧ (0#5).toNat < 23 := by decide

theorem witness_UnreachableRoundIndexStops : 24 ≤ (24#5).toNat ∧ 24 ≤ (31#5).toNat := by decide

theorem witness_MisuseEntersTheProtocolFault :
    ((spentState false .none).phase = .spent ∧ (spentState false .none).err = false) ∧
      ((spentState true .updateInSpent).phase = .spent ∧ (spentState true .updateInSpent).err = true) ∧
      (∃ t, exec .finalize (spentState false .none) = .next t) :=
  ⟨by decide, by decide, _, rfl⟩

theorem witness_OnlyMisuseRaisesTheFault :
    (spentState false .none).err = false ∧
      (∃ t, exec .finalize (spentState false .none) = .next t ∧ t.err = true) ∧
      (∃ t, exec (.update 0) (spentState false .none) = .next t ∧ t.err = true) :=
  ⟨by decide, ⟨_, rfl, rfl⟩, ⟨_, rfl, rfl⟩⟩

theorem witness_FirstCauseIsKeptUntilReset :
    let s := (spentState true .updateInSpent).setInputs [PortInput.present 0x200]
    s.err = true ∧ (∃ t, step s = .next t) ∧ s.sampled.rst = false ∧ s.acceptedCmd ≠ some .reset :=
  ⟨rfl, ⟨_, rfl⟩, rfl, by decide⟩

theorem witness_StateBytesChangeOnlyWhereWritten :
    (∃ t, exec .nop State.reset = .next t) ∧
      (∃ t, exec (.update 0) (spentState false .none) = .next t) ∧
      (∃ t, exec (.update 0) State.reset = .next t ∧ State.reset.buf.blen < 135) ∧
      (after (exec .finalize State.reset) fun t => decide (stateByte t.lanes 0 ≠ stateByte State.reset.lanes 0)) =
        some true ∧
      (∃ t, exec .reset State.reset = .next t) :=
  ⟨⟨_, rfl⟩, ⟨_, rfl⟩, ⟨_, rfl, by decide⟩, by decide +kernel, ⟨_, rfl⟩⟩

theorem witness_RegistersChangeOnlyByTheirWriters :
    (∃ t, exec (.update 0) State.reset = .next t ∧ t.buf ≠ State.reset.buf ∧ t.phase ≠ State.reset.phase) ∧
      (∃ t, exec (.permA 0) (busyState .permA 0 zeroLanes) = .next t ∧ t.rnd ≠ (busyState .permA 0 zeroLanes).rnd) ∧
      (after (exec (.update 0x87) (absorbingState fullBuffer)) fun t => decide (t.lanes ≠ zeroLanes)) = some true ∧
      (∃ t, exec .finalize (spentState false .none) = .next t ∧ t.err ≠ (spentState false .none).err) :=
  ⟨⟨_, rfl, by decide, by decide⟩, ⟨_, rfl, by decide⟩, by decide +kernel, ⟨_, rfl, by decide⟩⟩

theorem witness_LanesAreLittleEndianInTheByteSpace : (199 : Nat) / 8 = 24 ∧ 7 < 8 ∧ (0 : Nat) / 8 = 0 := by decide

theorem witness_WrittenBytesReadBack :
    192 + 8 ≤ 200 ∧ (7 < 8 ∨ 8 + 4 ≤ 7) ∧ (12 < 8 ∨ 8 + 4 ≤ 12) := by decide

theorem witness_OutputPortsShowTheState :
    (spentState false .none).phase = .spent ∧ State.reset.phase ≠ .spent := by decide

theorem witness_OutputsRevealOnlyTheDigest :
    let s := spentState false .none
    let t := s.setLanes (zeroLanes.set 4 1)
    s.phase = t.phase ∧ s.fsm = t.fsm ∧ s.err = t.err ∧ s.ecause = t.ecause ∧ s.lanes ≠ t.lanes ∧
      ∀ k : Fin 200, k.val < 32 → stateByte s.lanes k = stateByte t.lanes k := by decide +kernel

/-- A spent state meets the invariants. -/
theorem inv_spentPresenting (cw : CmdWord) : Inv (spentPresenting cw) :=
  { blen_le := Nat.zero_le _
    rnd_le := Nat.zero_le _
    idle_rnd := fun _ => rfl
    fresh_clear := fun h => by cases h
    busy_absorbing := fun h => absurd rfl h
    spent_idle := fun _ => ⟨rfl, rfl⟩
    err_spent := fun h => by cases h
    ecause_err := ⟨fun h => absurd rfl h, fun h => by cases h⟩ }

theorem witness_DigestIsStableUntilReset :
    State.reset.digestValid = false ∧
      (Inv (spentPresenting 0x155) ∧ (spentPresenting 0x155).digestValid = true ∧
        rstFree 1 (spentPresenting 0x155) = true ∧ Instr.reset ∉ acceptedRun 1 (spentPresenting 0x155) ∧
        ∃ t, run 1 (spentPresenting 0x155) = .next t) :=
  ⟨by decide, inv_spentPresenting _, by decide, by decide, by decide, _, rfl⟩

theorem witness_IotaTouchesLaneZeroOnly : ((0, 1) : Fin 5 × Fin 5) ≠ (0, 0) := by decide

/-- The pattern state with its own column parities and its value after RHO and PI. -/
theorem witness_RoundIsTheFiveMappingsInOrder :
    (∀ x, columnParity pattern x =
        lane pattern x 0 ^^^ lane pattern x 1 ^^^ lane pattern x 2 ^^^ lane pattern x 3 ^^^ lane pattern x 4) ∧
      ∀ x y, lane (pi (rho (theta pattern))) y (2 * x + 3 * y) =
        (lane pattern x y ^^^ (columnParity pattern (x - 1) ^^^
          (columnParity pattern (x + 1)).rotateLeft 1)).rotateLeft (ROT x y).val := by decide +kernel

theorem witness_TwentyFourStepsApplyPermute :
    ((busyState .permF 0 zeroLanes).fsm ≠ .idle ∧ (busyState .permF 0 zeroLanes).rnd = 0 ∧
        rstFree 24 (busyState .permF 0 zeroLanes) = true) ∧
      ((busyState .permA 0 zeroLanes).fsm ≠ .idle ∧ (busyState .permA 0 zeroLanes).rnd = 0 ∧
        rstFree 24 (busyState .permA 0 zeroLanes) = true) := by decide

theorem witness_EveryStepKeepsTheInvariants :
    Inv (spentPresenting 0x155) ∧ ∃ t, step (spentPresenting 0x155) = .next t :=
  ⟨inv_spentPresenting _, _, rfl⟩

theorem witness_PhaseFollowsTheLifecycle :
    (∃ t, step (readyState [PortInput.present 0x161]) = .next t ∧ t.phase = .absorbing) ∧
      (∃ t, step (busyState .permF 23 zeroLanes) = .next t ∧ t.phase = .spent) :=
  ⟨⟨_, rfl, rfl⟩, ⟨_, rfl, rfl⟩⟩

theorem witness_BusyAtMostTwentyFourSteps :
    rstFree (busyState .permA 0 zeroLanes).busySteps (busyState .permA 0 zeroLanes) = true ∧
      0 < (busyState .permA 0 zeroLanes).busySteps ∧ rstFree 0 (busyState .permA 0 zeroLanes) = true ∧
      run 0 (busyState .permA 0 zeroLanes) = .next (busyState .permA 0 zeroLanes) :=
  ⟨by decide, by decide, by decide, rfl⟩

theorem witness_FinalizeIsFollowedByTheDigest :
    (readyState [PortInput.present 0x200]).acceptedCmd = some .finalize ∧
      (readyState [PortInput.present 0x200]).phase ≠ .spent ∧
      rstFree 25 (readyState [PortInput.present 0x200]) = true := by decide

theorem witness_ResetLeavesNoTrace :
    (∃ t, step (spentPresenting 0x300) = .next t) ∧ (spentPresenting 0x300).acceptedCmd = some .reset ∧
      (∃ t, step (readyState [PortInput.hardReset]) = .next t) ∧
      (readyState [PortInput.hardReset]).sampled.rst = true :=
  ⟨⟨_, rfl⟩, by decide, ⟨_, rfl⟩, by decide⟩

theorem witness_DutifulHostSeesNoFault :
    (spentPresenting 0x300).err = false ∧ dutifulRun 2 (spentPresenting 0x300) = true ∧
      dutifulRun 1 (spentPresenting 0x200) = false := by decide

theorem witness_WordLeftValidIsExecutedEachStep :
    let s := readyState (List.replicate 3 (PortInput.present (cmdWordOf 0b01#2 0x61)))
    s.fsm = .idle ∧ s.phase ≠ .spent ∧ s.buf.blen + 3 ≤ 135 ∧
      s.inputs = List.replicate 3 (PortInput.present (cmdWordOf 0b01#2 0x61)) :=
  ⟨rfl, by decide, by decide, rfl⟩

theorem witness_RunIsTheCollapsedCommands :
    let s := readyState [PortInput.present 0x161, PortInput.idle]
    s.fsm = .idle ∧ rstFree 2 s = true ∧ ∃ t, run 2 s = .next t ∧ t.fsm = .idle :=
  ⟨rfl, by decide, _, rfl, rfl⟩

theorem witness_TimingAndNopsDoNotMatter :
    let s := readyState [PortInput.present 0x161]
    let s' := readyState [PortInput.idle, PortInput.present 0x077, PortInput.present 0x161]
    s.setInputs [] = s'.setInputs [] ∧ s.fsm = .idle ∧ rstFree 1 s = true ∧ rstFree 3 s' = true ∧
      (∃ t, run 1 s = .next t ∧ t.fsm = .idle) ∧ (∃ t', run 3 s' = .next t' ∧ t'.fsm = .idle) ∧
      (acceptedRun 1 s).filter (· ≠ .nop) = (acceptedRun 3 s').filter (· ≠ .nop) :=
  ⟨rfl, rfl, by decide, by decide, ⟨_, rfl, rfl⟩, ⟨_, rfl, rfl⟩, by decide⟩

/-- The empty message: FINALIZE, then 24 idle steps (program P1). -/
theorem witness_DigestIsKeccakOfTheAcceptedBytes :
    let s := readyState [PortInput.present 0x200]
    s.setInputs [] = State.reset ∧ rstFree 25 s = true ∧
      (acceptedRun 25 s).filter (· ≠ .nop) = ([] : List Byte).map .update ++ [.finalize] ∧
      ∃ t, run 25 s = .next t ∧ t.digestValid = true :=
  ⟨rfl, by decide, by rfl, _, rfl, rfl⟩

theorem witness_PaddedMessageIsWholeBlocks :
    abcBuffer.bytes = ([0x61, 0x62, 0x63] : List Byte).drop (136 * (([0x61, 0x62, 0x63] : List Byte).length / 136)) ∧
      0 < (List.replicate 136 (0 : Byte)).length / 136 := by decide +kernel

end Sys2Proof.Tests
end

/-! PROOFS. The byte space under writes (R12, R51): one byte, a sequence of bytes, MemWrite. -/

namespace Sys2Proof.Machine

/-- The mask that clears a byte has ones in the low eight bits only. -/
theorem getLsbD_byteMask (j : Nat) : (0xFF#64).getLsbD j = decide (j < 8) := by
  have hmask : 0xFF#64 = (BitVec.allOnes 8).setWidth 64 := by decide
  rw [hmask, BitVec.getLsbD_setWidth, BitVec.getLsbD_allOnes]
  simp only [Bool.and_eq_right_iff_imp, decide_eq_true_eq]
  omega

/-- Bit m of lane i after one byte was written: a bit of the byte inside its window, the old bit elsewhere. -/
theorem getLsbD_setStateByte (A : Lanes) (k : Fin 200) (v : Byte) (i : Nat) (hi : i < 25) (m : Nat) (hm : m < 64) :
    (setStateByte A k v)[i].getLsbD m =
      if i = k.val / 8 ∧ 8 * (k.val % 8) ≤ m ∧ m < 8 * (k.val % 8) + 8 then v.getLsbD (m - 8 * (k.val % 8))
      else A[i].getLsbD m := by
  by_cases hlane : i = k.val / 8
  · subst hlane
    simp only [setStateByte, Vector.getElem_set_self, BitVec.getLsbD_or, BitVec.getLsbD_and, BitVec.getLsbD_not,
      BitVec.getLsbD_shiftLeft, BitVec.getLsbD_setWidth, getLsbD_byteMask, true_and]
    by_cases hlow : m < 8 * (k.val % 8)
    · simp [hm, hlow, Nat.not_le.mpr hlow]
    · by_cases hhigh : m < 8 * (k.val % 8) + 8
      · have hbit : m - 8 * (k.val % 8) < 8 := by omega
        have hword : m - 8 * (k.val % 8) < 64 := by omega
        simp [hm, hlow, hhigh, hbit, hword, Nat.not_lt.mp hlow]
      · have hbit : ¬ m - 8 * (k.val % 8) < 8 := by omega
        simp [hm, hlow, hhigh, hbit, BitVec.getLsbD_of_ge v _ (Nat.not_lt.mp hbit)]
  · rw [if_neg fun h => hlane h.1]
    simp [setStateByte, Vector.getElem_set_ne _ _ (Ne.symm hlane)]

/-- The written byte reads back. -/
@[simp] theorem stateByte_setStateByte_same (A : Lanes) (k : Fin 200) (v : Byte) :
    stateByte (setStateByte A k v) k = v := by
  apply BitVec.eq_of_getLsbD_eq
  intro j hj
  have hwindow : k.val / 8 = k.val / 8 ∧ 8 * (k.val % 8) ≤ 8 * (k.val % 8) + j ∧
      8 * (k.val % 8) + j < 8 * (k.val % 8) + 8 := by omega
  rw [getLsbD_stateByte, getLsbD_setStateByte _ _ _ _ _ _ (by omega), if_pos hwindow]
  simp [hj]

/-- Every other byte stays, in the same lane or another. -/
theorem stateByte_setStateByte_of_ne (A : Lanes) {k l : Fin 200} (v : Byte) (h : k ≠ l) :
    stateByte (setStateByte A k v) l = stateByte A l := by
  apply BitVec.eq_of_getLsbD_eq
  intro j hj
  have hval : k.val ≠ l.val := Fin.val_ne_of_ne h
  have houtside : ¬ (l.val / 8 = k.val / 8 ∧ 8 * (k.val % 8) ≤ 8 * (l.val % 8) + j ∧
      8 * (l.val % 8) + j < 8 * (k.val % 8) + 8) := by omega
  rw [getLsbD_stateByte, getLsbD_stateByte, getLsbD_setStateByte _ _ _ _ _ _ (by omega), if_neg houtside]

section WriteSequence

variable {ι : Type} (place : ι → Fin 200) (value : ι → Byte)

/-- Byte writes in sequence leave every byte outside their places. -/
theorem stateByte_foldl_setStateByte_of_forall_ne (k : Fin 200) (js : List ι) (A : Lanes)
    (h : ∀ j ∈ js, place j ≠ k) :
    stateByte (js.foldl (fun B j => setStateByte B (place j) (value j)) A) k = stateByte A k := by
  induction js generalizing A with
  | nil => rfl
  | cons j js ih =>
    obtain ⟨hj, hjs⟩ := List.forall_mem_cons.mp h
    rw [List.foldl_cons, ih _ hjs, stateByte_setStateByte_of_ne A _ hj]

/-- Byte writes in sequence to distinct places all read back. -/
theorem stateByte_foldl_setStateByte_of_mem (hplace : Function.Injective place) {i : ι} (js : List ι) (A : Lanes)
    (hi : i ∈ js) :
    stateByte (js.foldl (fun B j => setStateByte B (place j) (value j)) A) (place i) = value i := by
  induction js generalizing A with
  | nil => cases hi
  | cons j js ih =>
    rw [List.foldl_cons]
    by_cases hlater : i ∈ js
    · exact ih _ hlater
    · obtain rfl : i = j := (List.mem_cons.mp hi).resolve_right hlater
      have hne : ∀ j ∈ js, place j ≠ place i := fun j hj heq => hlater (hplace heq ▸ hj)
      rw [stateByte_foldl_setStateByte_of_forall_ne place value _ js _ hne, stateByte_setStateByte_same]

end WriteSequence

/-- The n low base-256 digits of v, least significant first, stand for `v mod 256^n` (R12: little-endian). -/
theorem leNumber_digits (n v : Nat) :
    leNumber ((List.finRange n).map fun j => BitVec.ofNat 8 (v / 256 ^ j.val)) = v % 256 ^ n := by
  induction n generalizing v with
  | zero => simp [leNumber, Nat.mod_one]
  | succ n ih =>
    have hdigit (j : Nat) : v / 256 ^ (j + 1) = v / 256 / 256 ^ j := by
      rw [Nat.pow_succ', Nat.div_div_eq_div_mul]
    have hsplit : v % 256 ^ (n + 1) = v % 256 + 256 * (v / 256 % 256 ^ n) := by
      rw [Nat.pow_succ', Nat.mod_mul]
    rw [List.finRange_succ, List.map_cons, List.map_map, leNumber, hsplit, ← ih (v / 256)]
    simp [Function.comp_def, hdigit]

/-- MemWrite inside the byte space answers, byte j of the place holds digit j of the value, and the rest stays. -/
theorem memWrite_bytes (A : Lanes) {addr n : Nat} (v : Nat) (h : addr + n ≤ 200) :
    ∃ B, memWrite A addr n v = some B ∧
      (∀ j : Fin n, stateByte B ⟨addr + j.val, by omega⟩ = BitVec.ofNat 8 (v / 256 ^ j.val)) ∧
      ∀ k : Fin 200, k.val < addr ∨ addr + n ≤ k.val → stateByte B k = stateByte A k := by
  refine ⟨_, dif_pos h, fun j => ?_, fun k hk => ?_⟩
  · have hplace : Function.Injective fun j : Fin n => (⟨addr + j.val, by omega⟩ : Fin 200) :=
      fun a b hab => Fin.ext (Nat.add_left_cancel (Fin.val_eq_of_eq hab))
    exact stateByte_foldl_setStateByte_of_mem _ _ hplace _ A (List.mem_finRange j)
  · apply stateByte_foldl_setStateByte_of_forall_ne
    intro j _ heq
    have : addr + j.val = k.val := Fin.val_eq_of_eq heq
    omega

/-- Settles O28: MemRead lists the digits that MemWrite left, and these stand for the n low bytes of the value. -/
theorem writtenBytesReadBack : Obligations.WrittenBytesReadBack := by
  intro A addr n v h
  obtain ⟨B, hwrite, hbytes, hframe⟩ := memWrite_bytes A v h
  refine ⟨B, hwrite, ?_, hframe⟩
  rw [memRead, dif_pos h, List.map_congr_left fun j _ => hbytes j, leNumber_digits]

end Sys2Proof.Machine

/-! PROOFS. What an operation and a step can do, each said once (R110), and the invariants of R40 kept by every step
(10_state.md section 8). -/

namespace Sys2Proof.Machine

/-! ## What an operation can do -/

/-- The ways an operation ends in a next state, each with its guard (R111 to R114, R117, R119, R143). -/
inductive Effect (s : State) : Instr → State → Prop where
  | nop : Effect s .nop s
  | updateMisuse (b : Byte) (hspent : s.phase = .spent) :
      Effect s (.update b) (raiseProtocolFault .updateInSpent s)
  | updateBuffers (b : Byte) (hopen : s.phase ≠ .spent) (hroom : s.buf.blen < 135) :
      Effect s (.update b) ((s.setPhase .absorbing).setBuf (s.buf.push b hroom))
  | updateFills (b : Byte) (hopen : s.phase ≠ .spent) (hfull : s.buf.blen = 135) :
      Effect s (.update b) (absorbAndStart (fillBlock s.buf b) .permA (s.setPhase .absorbing))
  | finalizeMisuse (hspent : s.phase = .spent) :
      Effect s .finalize (raiseProtocolFault .finalizeInSpent s)
  | finalizePads (hopen : s.phase ≠ .spent) :
      Effect s .finalize (absorbAndStart (pad s.buf) .permF (s.setPhase .absorbing))
  | reset : Effect s .reset (clearEngine s)
  | roundA (r : BitVec 5) (hr : r.toNat < 24) : Effect s (.permA r) (roundStep ⟨r.toNat, hr⟩ s)
  | roundF (r : BitVec 5) (hr : r.toNat < 23) : Effect s (.permF r) (roundStep ⟨r.toNat, by omega⟩ s)
  | lastRoundF (r : BitVec 5) (hr : r.toNat = 23) :
      Effect s (.permF r) ((roundStep ⟨r.toNat, by omega⟩ s).setPhase .spent)

/-- An operation that answers a next state has one of the listed effects. -/
theorem effect_of_exec {i : Instr} {s t : State} (h : exec i s = .next t) : Effect s i t := by
  cases i with
  | nop => exact next_inj h ▸ .nop
  | update b =>
    obtain ⟨hspent, rfl⟩ | ⟨hopen, hroom, rfl⟩ | ⟨hopen, hfull, rfl⟩ := execUpdate_cases h
    · exact .updateMisuse b hspent
    · exact .updateBuffers b hopen hroom
    · exact .updateFills b hopen hfull
  | finalize =>
    obtain ⟨hspent, rfl⟩ | ⟨hopen, rfl⟩ := execFinalize_cases h
    · exact .finalizeMisuse hspent
    · exact .finalizePads hopen
  | reset => exact next_inj h ▸ .reset
  | permA r =>
    obtain ⟨hr, rfl⟩ := execPermA_cases h
    exact .roundA r hr
  | permF r =>
    obtain ⟨-, ⟨hlast, rfl⟩ | ⟨hlt, rfl⟩⟩ := execPermF_cases h
    · exact .lastRoundF r hlast
    · exact .roundF r hlt

/-! ## What a step can do -/

/-- PERM.A with the register's round index does that round (R117). -/
theorem execPermA_roundBits (r : Fin 24) (s : State) : execPermA (roundBits r) s = .next (roundStep r s) := by
  simp [execPermA]

/-- PERM.F with the register's round index does that round, and the last one ends the message (R119). -/
theorem execPermF_roundBits (r : Fin 24) (s : State) :
    execPermF (roundBits r) s = .next (if r = 23 then (roundStep r s).setPhase .spent else roundStep r s) := by
  by_cases hr : r = 23
  · subst hr
    rfl
  · have hval : r.val ≠ 23 := fun h => hr (Fin.ext h)
    simp [execPermF, hr, hval]

/-- No command word selects a round step (R71, R75). -/
theorem decodeCmd_ne_perm (cw : CmdWord) (r : BitVec 5) : decodeCmd cw ≠ .permA r ∧ decodeCmd cw ≠ .permF r := by
  unfold decodeCmd
  split_ifs <;> simp

/-- A ready step without `rst` accepts the presented word exactly when it is valid (R37). -/
theorem acceptedCmd_of_idle {s : State} (hrst : s.sampled.rst = false) (hidle : s.fsm = .idle) :
    s.acceptedCmd = if s.sampled.cmdValid then some (decodeCmd s.sampled.word) else none := by
  simp [State.acceptedCmd, State.accepts, State.cmdReady, hrst, hidle]

/-- The six ways a step ends, in the order of R110. -/
theorem step_cases {s t : State} (h : step s = .next t) :
    (s.sampled.rst = true ∧ t = clearEngine s.afterSample) ∨
    (s.sampled.rst = false ∧ s.fsm = .permA ∧ t = roundStep s.rnd s.afterSample) ∨
    (s.sampled.rst = false ∧ s.fsm = .permF ∧ s.rnd = 23 ∧ t = (roundStep s.rnd s.afterSample).setPhase .spent) ∨
    (s.sampled.rst = false ∧ s.fsm = .permF ∧ s.rnd ≠ 23 ∧ t = roundStep s.rnd s.afterSample) ∨
    (s.sampled.rst = false ∧ s.fsm = .idle ∧ ∃ cw, s.acceptedCmd = some (decodeCmd cw) ∧
      Effect s.afterSample (decodeCmd cw) t) ∨
    (s.sampled.rst = false ∧ s.fsm = .idle ∧ s.acceptedCmd = none ∧ t = s.afterSample) := by
  obtain ⟨hrst, he⟩ | ⟨hrst, hfsm, he⟩ | ⟨hrst, hfsm, he⟩ | ⟨hrst, hidle, hvalid, he⟩ | ⟨hrst, hidle, hvalid, he⟩ :=
    engineStep_cases s.sampled s.afterSample
  all_goals replace h := he.symm.trans h
  · exact .inl ⟨hrst, (next_inj h).symm⟩
  · rw [execPermA_roundBits] at h
    exact .inr (.inl ⟨hrst, hfsm, (next_inj h).symm⟩)
  · rw [execPermF_roundBits] at h
    by_cases hlast : s.rnd = 23
    · exact .inr (.inr (.inl ⟨hrst, hfsm, hlast, (next_inj h).symm.trans (if_pos hlast)⟩))
    · exact .inr (.inr (.inr (.inl ⟨hrst, hfsm, hlast, (next_inj h).symm.trans (if_neg hlast)⟩)))
  · have hcmd := acceptedCmd_of_idle hrst hidle
    rw [if_pos hvalid] at hcmd
    exact .inr (.inr (.inr (.inr (.inl ⟨hrst, hidle, _, hcmd, effect_of_exec h⟩))))
  · have hcmd := acceptedCmd_of_idle hrst hidle
    rw [hvalid] at hcmd
    exact .inr (.inr (.inr (.inr (.inr ⟨hrst, hidle, hcmd, (next_inj h).symm⟩))))

/-! ## The invariants, write by write -/

/-- Settles O40: each item is read off the reset values (R41). -/
theorem resetStateMeetsTheInvariants : Obligations.ResetStateMeetsTheInvariants where
  blen_le := Nat.zero_le _
  rnd_le := Nat.zero_le _
  idle_rnd _ := rfl
  fresh_clear _ := ⟨rfl, rfl, rfl, rfl⟩
  busy_absorbing h := absurd rfl h
  spent_idle h := nomatch h
  err_spent h := nomatch h
  ecause_err := by simp [State.reset]

/-- The invariants speak of the registers only, not of the inputs to come. -/
theorem Inv.setInputs {s : State} (h : Inv s) (l : List PortInput) : Inv (s.setInputs l) := { h with }

/-- RESET and `rst` leave the reset state (R114, R160). -/
theorem inv_clearEngine (s : State) : Inv (clearEngine s) :=
  clearEngine_eq s ▸ Inv.setInputs resetStateMeetsTheInvariants s.inputs

section Writes

variable {s : State} (h : Inv s)
include h

/-- Misuse in SPENT writes the mark together with a cause (item 7). -/
theorem Inv.raiseProtocolFault {c : ECause} (hspent : s.phase = .spent) (hc : c ≠ .none) :
    Inv (raiseProtocolFault c s) := by
  obtain ⟨-, heq⟩ | ⟨-, heq⟩ := raiseProtocolFault_cases c s
  · rwa [heq]
  · rw [heq]
    exact { h with
      fresh_clear := fun hfresh => nomatch hspent.symm.trans hfresh
      err_spent := fun _ => hspent
      ecause_err := by simp [hc] }

/-- An idle engine may buffer anything while the message is open. -/
theorem Inv.setPhase_absorbing_setBuf (hidle : s.fsm = .idle) (hopen : s.phase ≠ .spent) (b : Buffer) :
    Inv ((s.setPhase .absorbing).setBuf b) :=
  { h with
    blen_le := b.blen_le
    fresh_clear := fun hfresh => nomatch hfresh
    busy_absorbing := fun hbusy => absurd hidle hbusy
    spent_idle := fun hspent => nomatch hspent
    err_spent := fun herr => absurd (h.err_spent herr) hopen }

/-- Absorbing a block empties the buffer and starts a permutation in ABSORBING (items 3 and 5). -/
theorem Inv.absorbAndStart_of_open (hopen : s.phase ≠ .spent) (block : Block) (f : Fsm) :
    Inv (absorbAndStart block f (s.setPhase .absorbing)) := by
  rw [absorbAndStart_eq]
  exact { h with
    blen_le := Nat.zero_le _
    rnd_le := Nat.zero_le _
    idle_rnd := fun _ => rfl
    fresh_clear := fun hfresh => nomatch hfresh
    busy_absorbing := fun _ => ⟨rfl, rfl⟩
    spent_idle := fun hspent => nomatch hspent
    err_spent := fun herr => absurd (h.err_spent herr) hopen }

/-- A round step of a running permutation: the sequencer counts on, or goes idle with `rnd` = 0. -/
theorem Inv.roundStep_of_busy (hbusy : s.fsm ≠ .idle) (r : Fin 24) : Inv (roundStep r s) := by
  obtain ⟨habsorbing, hempty⟩ := h.busy_absorbing hbusy
  have hfresh : s.phase ≠ .fresh := by simp [habsorbing]
  have hspent : s.phase ≠ .spent := by simp [habsorbing]
  by_cases hr : r.val = 23
  · rw [roundStep_last r s hr]
    generalize keccakRound s.lanes r = A
    exact { h with
      rnd_le := Nat.zero_le _
      idle_rnd := fun _ => rfl
      fresh_clear := fun hp => absurd hp hfresh
      busy_absorbing := fun hne => absurd rfl hne
      spent_idle := fun hp => absurd hp hspent }
  · rw [roundStep_of_lt r s (by omega)]
    generalize keccakRound s.lanes r = A
    exact { h with
      rnd_le := Nat.lt_succ_iff.mp (Fin.isLt _)
      idle_rnd := fun hidle => absurd hidle hbusy
      fresh_clear := fun hp => absurd hp hfresh }

/-- An idle engine with an empty buffer may enter SPENT (item 6). -/
theorem Inv.setPhase_spent (hidle : s.fsm = .idle) (hempty : s.buf.blen = 0) : Inv (s.setPhase .spent) :=
  { h with
    fresh_clear := fun hfresh => nomatch hfresh
    busy_absorbing := fun hbusy => absurd hidle hbusy
    spent_idle := fun _ => ⟨hidle, hempty⟩
    err_spent := fun _ => rfl }

/-- The last round of PERM_F: idle, empty and SPENT (R119). -/
theorem Inv.roundStep_last_setPhase_spent (hbusy : s.fsm ≠ .idle) {r : Fin 24} (hr : r = 23) :
    Inv ((roundStep r s).setPhase .spent) := by
  obtain ⟨-, hempty⟩ := h.busy_absorbing hbusy
  have hbuf : (roundStep r s).buf = s.buf := (roundStep_frame r s).1
  apply (h.roundStep_of_busy hbusy r).setPhase_spent
  · rw [roundStep_last r s (congrArg Fin.val hr)]
  · rw [hbuf, hempty]

/-- An accepted command, branch by branch. -/
theorem Inv.command {cw : CmdWord} {t : State} (hidle : s.fsm = .idle) (heff : Effect s (decodeCmd cw) t) :
    Inv t := by
  have hcmd := decodeCmd_ne_perm cw
  generalize decodeCmd cw = i at hcmd heff
  cases heff with
  | nop => exact h
  | updateMisuse b hspent => exact h.raiseProtocolFault hspent (by decide)
  | updateBuffers b hopen hroom => exact h.setPhase_absorbing_setBuf hidle hopen _
  | updateFills b hopen hfull => exact h.absorbAndStart_of_open hopen _ _
  | finalizeMisuse hspent => exact h.raiseProtocolFault hspent (by decide)
  | finalizePads hopen => exact h.absorbAndStart_of_open hopen _ _
  | reset => exact inv_clearEngine s
  | roundA r => exact absurd rfl (hcmd r).1
  | roundF r => exact absurd rfl (hcmd r).2
  | lastRoundF r => exact absurd rfl (hcmd r).2

end Writes

/-- Settles O41: every way a step can go keeps the invariants of the state it starts from. -/
theorem everyStepKeepsTheInvariants : Obligations.EveryStepKeepsTheInvariants := by
  intro s t hinv hstep
  have hinv' : Inv s.afterSample := hinv.setInputs _
  obtain ⟨-, rfl⟩ | ⟨-, hfsm, rfl⟩ | ⟨-, hfsm, hlast, rfl⟩ | ⟨-, hfsm, -, rfl⟩ | ⟨-, hidle, cw, -, heff⟩ |
    ⟨-, -, -, rfl⟩ := step_cases hstep
  · exact inv_clearEngine _
  · exact hinv'.roundStep_of_busy (by simp [hfsm]) _
  · exact hinv'.roundStep_last_setPhase_spent (by simp [hfsm]) hlast
  · exact hinv'.roundStep_of_busy (by simp [hfsm]) _
  · exact hinv'.command hidle heff
  · exact hinv'

end Sys2Proof.Machine

/-! PROOFS. Frames and transitions read off what an operation and a step can do: the byte space (R22, R57), the
registers (10_state.md section 1), the lifecycle of `phase` (R120), acceptance (R37), and the output ports (R36). -/

namespace Sys2Proof.Machine

/-! ## The shared operations, register by register -/

/-- The lanes after absorbing and starting, and the registers it does not write (R112, R113). -/
@[simp] theorem absorbAndStart_frame (block : Block) (f : Fsm) (s : State) :
    (absorbAndStart block f s).lanes = absorbBlock s.lanes block ∧ (absorbAndStart block f s).phase = s.phase ∧
      (absorbAndStart block f s).err = s.err ∧ (absorbAndStart block f s).ecause = s.ecause ∧
      (absorbAndStart block f s).inputs = s.inputs := by
  simp [absorbAndStart]

@[simp] theorem clearEngine_lanes (s : State) : (clearEngine s).lanes = zeroLanes := rfl

@[simp] theorem clearEngine_phase (s : State) : (clearEngine s).phase = .fresh := rfl

@[simp] theorem clearEngine_inputs (s : State) : (clearEngine s).inputs = s.inputs := rfl

/-! ## The byte space -/

/-- Absorbing a block leaves the bytes of the capacity (R57, R116). -/
theorem stateByte_absorbBlock_capacity (A : Lanes) (block : Block) {k : Fin 200} (hk : 136 ≤ k.val) :
    stateByte (absorbBlock A block) k = stateByte A k := by
  rw [stateByte, stateByte, absorbBlock_capacity A block (k.val / 8) (by omega) (by omega)]

@[simp] theorem stateByte_zeroLanes (k : Fin 200) : stateByte zeroLanes k = 0 := by
  simp [stateByte, zeroLanes]

/-- Settles O25, effect by effect. -/
theorem stateBytesChangeOnlyWhereWritten : Obligations.StateBytesChangeOnlyWhereWritten := by
  intro i s t hexec k
  cases effect_of_exec hexec with
  | nop => simp
  | updateMisuse b hspent => simp
  | updateBuffers b hopen hroom => simp
  | updateFills b hopen hfull =>
    have hcapacity := fun hk => stateByte_absorbBlock_capacity s.lanes (fillBlock s.buf b) (k := k) hk
    simpa [hopen, hfull] using hcapacity
  | finalizeMisuse hspent => simp
  | finalizePads hopen =>
    have hcapacity := fun hk => stateByte_absorbBlock_capacity s.lanes (pad s.buf) (k := k) hk
    simpa [hopen] using hcapacity
  | reset => simp
  | roundA r hr => simp
  | roundF r hr => simp
  | lastRoundF r hr => simp

/-! ## The registers -/

/-- Settles O26, effect by effect: a register that an effect writes has its operation among the writers, and the
others are as before. -/
theorem registersChangeOnlyByTheirWriters : Obligations.RegistersChangeOnlyByTheirWriters := by
  intro i s t hexec
  cases effect_of_exec hexec with
  | nop => simp
  | updateMisuse b hspent => simp [hspent]
  | updateBuffers b hopen hroom => simp [hopen]
  | updateFills b hopen hfull => simp [hopen, hfull]
  | finalizeMisuse hspent => simp [hspent]
  | finalizePads hopen => simp [hopen]
  | reset => simp
  | roundA r hr => simp
  | roundF r hr => simp
  | lastRoundF r hr =>
    have hlast : r = 23 := BitVec.eq_of_toNat_eq hr
    simp [hlast]

/-! ## The lifecycle -/

/-- UPDATE leaves SPENT and takes any other phase to ABSORBING (R112, R120). -/
theorem Effect.phase_of_update {b : Byte} {s t : State} (h : Effect s (.update b) t) :
    t.phase = if s.phase = .spent then .spent else .absorbing := by
  cases h with
  | updateMisuse _ hspent => simp [hspent]
  | updateBuffers _ hopen => simp [hopen]
  | updateFills _ hopen => simp [hopen]

/-- FINALIZE moves the phase as UPDATE does (R113, R120). -/
theorem Effect.phase_of_finalize {s t : State} (h : Effect s .finalize t) :
    t.phase = if s.phase = .spent then .spent else .absorbing := by
  cases h with
  | finalizeMisuse hspent => simp [hspent]
  | finalizePads hopen => simp [hopen]

/-- Settles O42: the six ways a step ends, against the table of R120. -/
theorem phaseFollowsTheLifecycle : Obligations.PhaseFollowsTheLifecycle := by
  intro s t hstep
  obtain ⟨hrst, rfl⟩ | ⟨hrst, hfsm, rfl⟩ | ⟨hrst, hfsm, hlast, rfl⟩ | ⟨hrst, hfsm, hlast, rfl⟩ |
    ⟨hrst, hidle, cw, hcmd, heff⟩ | ⟨hrst, hidle, hcmd, rfl⟩ := step_cases hstep
  · simp [hrst]
  · simp [hrst, hfsm]
  · simp [hrst, hfsm, hlast]
  · simp [hrst, hfsm, hlast]
  · have hround := decodeCmd_ne_perm cw
    generalize decodeCmd cw = i at hcmd heff hround
    simp only [hrst, hidle, hcmd]
    cases i with
    | nop => cases heff; rfl
    | update b => exact heff.phase_of_update
    | finalize => exact heff.phase_of_finalize
    | reset => cases heff; rfl
    | permA r => exact absurd rfl (hround r).1
    | permF r => exact absurd rfl (hround r).2
  · simp [hrst, hidle, hcmd]

/-! ## Acceptance -/

/-- Two inputs with the same `rst` that select the same operation make the same step. -/
theorem engineStep_congr {p q : PortInput} {s : State} (hrst : q.rst = p.rst)
    (hsel : selected q s = selected p s) : engineStep q s = engineStep p s := by
  simp only [engineStep, hrst, hsel]

/-- A busy engine selects the round step whatever is presented (R110). -/
theorem selected_of_not_ready (p q : PortInput) {s : State} (hbusy : s.cmdReady = false) :
    selected q s = selected p s := by
  have hfsm : s.fsm ≠ .idle := by simpa [State.cmdReady] using hbusy
  simp only [selected, if_neg hfsm]

/-- A ready engine to which nothing valid is presented selects nothing (R110). -/
theorem selected_of_not_valid {p : PortInput} {s : State} (hready : s.cmdReady = true) (hvalid : p.cmdValid = false) :
    selected p s = .ok none := by
  have hfsm : s.fsm = .idle := by simpa [State.cmdReady] using hready
  simp [selected, hfsm, hvalid]

/-- A ready engine selects the valid command presented to it (R37, R110). -/
theorem selected_of_valid {p : PortInput} {s : State} (hready : s.cmdReady = true) (hvalid : p.cmdValid = true) :
    selected p s = .ok (some (decodeCmd (p.cmdOp ++ p.cmdData))) := by
  have hfsm : s.fsm = .idle := by simpa [State.cmdReady] using hready
  simp [selected, hfsm, hvalid, PortInput.word, cmdWordOf]

/-- Settles O12: outside acceptance a step is a hard reset, a busy step or a step without a valid command, and none
of them reads the word. -/
theorem onlyAcceptingStepsReadTheCommand : Obligations.OnlyAcceptingStepsReadTheCommand := by
  intro p q s
  constructor
  · rintro ⟨hrst, hvalid, hready⟩
    simp [engineStep, hrst, selected_of_valid hready hvalid]
  · intro hnot hrst hsame
    cases hp : p.rst with
    | true => simp [engineStep, hrst, hp]
    | false =>
      apply engineStep_congr hrst
      cases hready : s.cmdReady with
      | false => exact selected_of_not_ready p q hready
      | true =>
        have hvalid : p.cmdValid = false := Bool.eq_false_iff.mpr fun hv => hnot ⟨hp, hv, hready⟩
        rw [selected_of_not_valid hready hvalid, selected_of_not_valid hready ((hsame hready).trans hvalid)]

/-! ## The output ports -/

/-- A listed number is below the power of 256 its length gives. -/
theorem leNumber_lt (l : List Byte) : leNumber l < 256 ^ l.length := by
  induction l with
  | nil => simp [leNumber]
  | cons b l ih =>
    have hb := b.isLt
    rw [leNumber, List.length_cons, Nat.pow_succ]
    omega

/-- Digit i in base 256 of a listed number is its byte i (R12: little-endian). -/
theorem leNumber_div_pow_mod (l : List Byte) (i : Nat) : leNumber l / 256 ^ i % 256 = (l.getD i 0).toNat := by
  induction l generalizing i with
  | nil => simp [leNumber]
  | cons b l ih =>
    have hb := b.isLt
    cases i with
    | zero =>
      rw [leNumber, Nat.pow_zero, Nat.div_one, List.getD_cons_zero]
      omega
    | succ i =>
      have htail : (b.toNat + 256 * leNumber l) / 256 = leNumber l := by omega
      rw [leNumber, Nat.pow_succ', ← Nat.div_div_eq_div_mul, htail, ih, List.getD_cons_succ]

/-- Byte i of the 256-bit number of at most 32 bytes is the i-th byte of the list (R36). -/
theorem extractLsb'_digestOfBytes (l : List Byte) (hl : l.length ≤ 32) (i : Nat) :
    (digestOfBytes l).extractLsb' (8 * i) 8 = l.getD i 0 := by
  have hfits : leNumber l < 2 ^ 256 :=
    calc leNumber l < 256 ^ l.length := leNumber_lt l
      _ ≤ 256 ^ 32 := Nat.pow_le_pow_right (by decide) hl
  apply BitVec.eq_of_toNat_eq
  rw [BitVec.extractLsb'_toNat, digestOfBytes, BitVec.toNat_ofNat, Nat.mod_eq_of_lt hfits, Nat.shiftRight_eq_div_pow,
    Nat.pow_mul]
  exact leNumber_div_pow_mod l i

/-- Byte i that SQUEEZE reads is `S[i]` (R118). -/
theorem getD_squeeze (A : Lanes) (i : Fin 32) : (squeeze A).getD i.val 0 = stateByte A ⟨i.val, by omega⟩ := by
  simp [squeeze]

theorem length_squeeze (A : Lanes) : (squeeze A).length = 32 := by simp [squeeze]

/-- SQUEEZE reads `S[0..31]` only. -/
theorem squeeze_congr {A B : Lanes} (h : ∀ k : Fin 200, k.val < 32 → stateByte A k = stateByte B k) :
    squeeze A = squeeze B :=
  List.map_congr_left fun i _ => h ⟨i.val, by omega⟩ i.isLt

/-- In SPENT the port shows what SQUEEZE reads (R36). -/
theorem digest_of_spent {s : State} (h : s.phase = .spent) : s.digest = digestOfBytes (squeeze s.lanes) := by
  simp [State.digest, State.digestValid, h]

/-- Outside SPENT the port shows zero (R36). -/
theorem digest_of_not_spent {s : State} (h : s.phase ≠ .spent) : s.digest = 0 := by
  simp [State.digest, State.digestValid, h]

/-- Settles O29, port by port. -/
theorem outputPortsShowTheState : Obligations.OutputPortsShowTheState := by
  intro s
  refine ⟨decide_eq_true_iff, decide_eq_true_iff, fun hspent i => ?_, digest_of_not_spent, ?_, rfl, ?_⟩
  · calc s.digest.extractLsb' (8 * i.val) 8
      _ = (squeeze s.lanes).getD i.val 0 := by
        rw [digest_of_spent hspent, extractLsb'_digestOfBytes _ (length_squeeze _).le]
      _ = stateByte s.lanes ⟨i.val, by omega⟩ := getD_squeeze s.lanes i
  · cases hphase : s.phase <;> simp [State.outputs, Phase.bits, hphase]
  · cases hcause : s.ecause <;> simp [State.outputs, ECause.bits, hcause]

/-- Settles O30: the digest is the only port that reads the lanes, and it reads `S[0..31]` in SPENT only. -/
theorem outputsRevealOnlyTheDigest : Obligations.OutputsRevealOnlyTheDigest := by
  intro s t hphase hfsm herr hcause hbytes
  have hdigest : s.digest = t.digest := by
    by_cases hspent : s.phase = .spent
    · rw [digest_of_spent hspent, digest_of_spent (hphase ▸ hspent), squeeze_congr (hbytes hspent)]
    · rw [digest_of_not_spent hspent, digest_of_not_spent (hphase ▸ hspent)]
  simp [State.outputs, State.cmdReady, State.digestValid, hphase, hfsm, herr, hcause, hdigest]

/-- Settles O11: the registers are the reset values themselves, and FRESH shows no digest. -/
theorem resetStateAndOutputs : Obligations.ResetStateAndOutputs := by
  have hdigest : State.reset.digest = 0 := digest_of_not_spent (by decide)
  refine ⟨fun i => ?_, rfl, rfl, rfl, rfl, rfl, rfl, ?_⟩
  · simp [State.reset]
  · rw [State.outputs, hdigest]
    rfl

end Sys2Proof.Machine

/-! PROOFS. Lanes and byte space are the same bits (R51): a byte as a digit of its lane, a lane as eight bytes read. -/

namespace Sys2Proof.Machine

/-- `S[8i+j]` is digit j in base 256 of lane i (R51: least significant byte first). -/
theorem stateByte_eq_digit (A : Lanes) (i : Fin 25) (j : Fin 8) :
    stateByte A ⟨8 * i.val + j.val, by omega⟩ = BitVec.ofNat 8 (A[i].toNat / 256 ^ j.val) := by
  have hlane : (8 * i.val + j.val) / 8 = i.val := by omega
  have hdigit : (8 * i.val + j.val) % 8 = j.val := by omega
  apply BitVec.eq_of_toNat_eq
  simp only [stateByte, hlane, hdigit, BitVec.extractLsb'_toNat, BitVec.toNat_ofNat, Nat.shiftRight_eq_div_pow,
    Nat.pow_mul]
  rfl

/-- MemRead of eight bytes at `8i` lists the digits of lane i, which stand for the lane (R12, R51). -/
theorem memRead_lane (A : Lanes) (i : Fin 25) : memRead A (8 * i.val) 8 = some A[i].toNat := by
  have hplace : 8 * i.val + 8 ≤ 200 := by omega
  have hword : A[i].toNat < 256 ^ 8 := A[i].isLt
  rw [memRead, dif_pos hplace, List.map_congr_left fun j _ => stateByte_eq_digit A i j, leNumber_digits,
    Nat.mod_eq_of_lt hword]

/-- Settles O27: a lane read as eight bytes, and a byte's bits as the bits of its lane. -/
theorem lanesAreLittleEndianInTheByteSpace : Obligations.LanesAreLittleEndianInTheByteSpace := by
  refine fun A i => ⟨memRead_lane A i, fun k j hlane hj => ?_⟩
  rw [getLsbD_stateByte]
  simp [hlane, hj]

end Sys2Proof.Machine

/-! PROOFS. The two word formats: a word is its fields side by side (R70, R75), each decoder depends on the fields
alone (R71, R74), and decoding undoes encoding (R81). -/

namespace Sys2Proof

/-! ## The command word -/

@[simp] theorem cmdOp_cmdWordOf (op : BitVec 2) (d : Byte) : cmdOp (cmdWordOf op d) = op :=
  BitVec.extractLsb'_append_eq_left

@[simp] theorem cmdData_cmdWordOf (op : BitVec 2) (d : Byte) : cmdData (cmdWordOf op d) = d :=
  BitVec.extractLsb'_append_eq_right

/-- A command word is its two fields (R70). -/
@[simp] theorem cmdWordOf_cmdOp_cmdData (cw : CmdWord) : cmdWordOf (cmdOp cw) (cmdData cw) = cw :=
  (BitVec.extractLsb'_append_extractLsb'_eq_extractLsb' (start₁ := 0) rfl).trans BitVec.extractLsb'_eq_self

/-- The mask of R71 keeps `op` and clears `data`. -/
theorem and_mask_eq_cmdWordOf (cw : CmdWord) : cw &&& 0x300#10 = cmdWordOf (cmdOp cw) 0 := by
  have hmask : 0x300#10 = BitVec.allOnes 2 ++ 0#8 := by decide
  conv_lhs => rw [← cmdWordOf_cmdOp_cmdData cw]
  rw [hmask, cmdWordOf, BitVec.and_append, BitVec.and_allOnes, BitVec.and_zero]
  rfl

/-- The word `op` with data zero is the row's match (R71). -/
theorem and_mask_eq_cmdWordOf_iff (cw : CmdWord) (op : BitVec 2) :
    cw &&& 0x300#10 = cmdWordOf op 0 ↔ cmdOp cw = op := by
  rw [and_mask_eq_cmdWordOf, cmdWordOf, cmdWordOf, BitVec.append_left_inj]

/-- The opcode map by field: `op` selects the row, and `data` counts in UPDATE only (R71, R74). -/
theorem decodeCmd_eq (cw : CmdWord) :
    decodeCmd cw =
      if cmdOp cw = 0b00#2 then .nop
      else if cmdOp cw = 0b01#2 then .update (cmdData cw)
      else if cmdOp cw = 0b10#2 then .finalize
      else .reset := by
  simp only [← and_mask_eq_cmdWordOf_iff]
  rfl

/-- The four values of `op` (R71: the rows cover every word). -/
theorem opField_cases (op : BitVec 2) : op = 0b00#2 ∨ op = 0b01#2 ∨ op = 0b10#2 ∨ op = 0b11#2 := by
  revert op; decide

theorem decodeCmd_cmdWordOf_nop (d : Byte) : decodeCmd (cmdWordOf 0b00#2 d) = .nop := by
  simp [decodeCmd_eq]

theorem decodeCmd_cmdWordOf_update (d : Byte) : decodeCmd (cmdWordOf 0b01#2 d) = .update d := by
  simp [decodeCmd_eq]

theorem decodeCmd_cmdWordOf_finalize (d : Byte) : decodeCmd (cmdWordOf 0b10#2 d) = .finalize := by
  simp [decodeCmd_eq]

theorem decodeCmd_cmdWordOf_reset (d : Byte) : decodeCmd (cmdWordOf 0b11#2 d) = .reset := by
  simp [decodeCmd_eq]

/-! ## The sequencer word -/

@[simp] theorem seqFsm_seqWordOf (f : BitVec 2) (r : BitVec 5) : seqFsm (seqWordOf f r) = f :=
  BitVec.extractLsb'_append_eq_left

@[simp] theorem seqRnd_seqWordOf (f : BitVec 2) (r : BitVec 5) : seqRnd (seqWordOf f r) = r :=
  BitVec.extractLsb'_append_eq_right

/-- The mask of R75 keeps `fsm` and clears `rnd`, so it compares `fsm` alone. -/
theorem seqWordOf_and_mask_eq_iff (f f' : BitVec 2) (r : BitVec 5) :
    seqWordOf f r &&& 0x60#7 = seqWordOf f' 0 ↔ f = f' := by
  have hmask : 0x60#7 = BitVec.allOnes 2 ++ 0#5 := by decide
  rw [hmask, seqWordOf, seqWordOf, BitVec.and_append, BitVec.and_allOnes, BitVec.and_zero]
  exact BitVec.append_left_inj 0

/-- The sequencer map by field (R75). -/
theorem decodeSeq_seqWordOf (f : BitVec 2) (r : BitVec 5) :
    decodeSeq (seqWordOf f r) =
      if f = 0b01#2 then if r.toNat ≤ 23 then .ok (.permA r) else .error .roundUnreachable
      else if f = 0b10#2 then if r.toNat ≤ 23 then .ok (.permF r) else .error .roundUnreachable
      else if f = 0b00#2 then .error .sequencerIdle
      else .error .fsmUnreachable := by
  simp only [← seqWordOf_and_mask_eq_iff f _ r]
  simp only [decodeSeq, seqRnd_seqWordOf]
  rfl

/-- `fsm` = 1 with a legal round selects PERM.A of that round (R75). -/
theorem decodeSeq_seqWordOf_permA {r : BitVec 5} (hr : r.toNat ≤ 23) :
    decodeSeq (seqWordOf 0b01#2 r) = .ok (.permA r) := by
  simp [decodeSeq_seqWordOf, hr]

/-- `fsm` = 2 with a legal round selects PERM.F of that round (R75). -/
theorem decodeSeq_seqWordOf_permF {r : BitVec 5} (hr : r.toNat ≤ 23) :
    decodeSeq (seqWordOf 0b10#2 r) = .ok (.permF r) := by
  simp [decodeSeq_seqWordOf, hr]

/-- A sequencer word that selects an operation has `fsm` 1 or 2 and a legal round (R75, U7). -/
theorem legal_of_decodeSeq_seqWordOf {f : BitVec 2} {r : BitVec 5} {i : Instr}
    (h : decodeSeq (seqWordOf f r) = .ok i) : (f = 0b01#2 ∨ f = 0b10#2) ∧ r.toNat ≤ 23 := by
  rw [decodeSeq_seqWordOf] at h
  split_ifs at h with hA hr hF hr
  · exact ⟨.inl hA, hr⟩
  · exact ⟨.inr hF, hr⟩

/-! ## The obligations -/

/-- Settles O2, by the operation: the word's fields are the ones its row is selected by, and the operand is read back
from its own field. -/
theorem encodedOperationDecodesToItself : Obligations.EncodedOperationDecodesToItself := by
  intro i hwf
  cases i with
  | nop => exact congrArg Except.ok (decodeCmd_cmdWordOf_nop 0)
  | update b => exact congrArg Except.ok (decodeCmd_cmdWordOf_update b)
  | finalize => exact congrArg Except.ok (decodeCmd_cmdWordOf_finalize 0)
  | reset => exact congrArg Except.ok (decodeCmd_cmdWordOf_reset 0)
  | permA r => exact decodeSeq_seqWordOf_permA (of_decide_eq_true hwf)
  | permF r => exact decodeSeq_seqWordOf_permF (of_decide_eq_true hwf)

/-- Settles O5, row by row; a word outside both rows would have to have a legal field pair to be accepted. -/
theorem sequencerWordSelectsItsRow : Obligations.SequencerWordSelectsItsRow := by
  refine fun f r => ⟨?_, ?_, fun hillegal i hok => hillegal (legal_of_decodeSeq_seqWordOf hok)⟩
  · rintro ⟨rfl, hr⟩
    exact decodeSeq_seqWordOf_permA hr
  · rintro ⟨rfl, hr⟩
    exact decodeSeq_seqWordOf_permF hr

/-- Settles O1: twelve words, each evaluated. -/
theorem specWordsDecodeAsListed : Obligations.SpecWordsDecodeAsListed := by
  unfold Obligations.SpecWordsDecodeAsListed
  decide

/-- Settles O3: a row's match under the mask is a value of `op`, and `op` has four values. -/
theorem commandWordSelectsItsRow : Obligations.CommandWordSelectsItsRow := by
  intro cw
  have hrow := and_mask_eq_cmdWordOf_iff cw
  refine ⟨fun h => ?_, fun h => ?_, fun h => ?_, fun h => ?_, ?_⟩
  · simp [decodeCmd_eq, (hrow 0b00#2).mp h]
  · simp [decodeCmd_eq, (hrow 0b01#2).mp h, cmdData]
  · simp [decodeCmd_eq, (hrow 0b10#2).mp h]
  · simp [decodeCmd_eq, (hrow 0b11#2).mp h]
  · exact (opField_cases (cmdOp cw)).imp (hrow _).mpr (.imp (hrow _).mpr (.imp (hrow _).mpr (hrow _).mpr))

/-- Settles O4: the operation of a row other than UPDATE has no operand, so its word has none of the data. -/
theorem ignoredDataIsDroppedAndCanonicalised : Obligations.IgnoredDataIsDroppedAndCanonicalised := by
  intro op d
  obtain rfl | rfl | rfl | rfl := opField_cases op
  · simp [decodeCmd_cmdWordOf_nop, encode]
  · simp [decodeCmd_cmdWordOf_update, encode]
  · simp [decodeCmd_cmdWordOf_finalize, encode]
  · simp [decodeCmd_cmdWordOf_reset, encode]

/-- Settles O7: five words, each printed. -/
theorem listingLinesOfTheSpec : Obligations.ListingLinesOfTheSpec := by
  unfold Obligations.ListingLinesOfTheSpec
  decide

namespace Machine

/-- The lines of joined messages are the lines of each in order (R82). -/
theorem updateBytes_flatten (chunks : List (List Byte)) :
    updateBytes chunks.flatten = chunks.flatMap updateBytes :=
  List.map_flatten

/-- Settles O53: between the same first and last lines, the lines of the chunks are those of the message. -/
theorem chunkingLeavesTheCommandsUnchanged : Obligations.ChunkingLeavesTheCommandsUnchanged := by
  intro chunks
  rw [hashLines, messageLines, updateBytes_flatten]
  rfl

end Machine

end Sys2Proof

/-! PROOFS. A running permutation seen to its end: what one busy step does, and the 24 - `rnd` of them that lead to
the next ready state (R100, R117, R119, R121). -/

namespace Sys2Proof.Machine

/-- The rounds `r .. 23` of PERMUTE (R100). -/
def permuteFrom (r : Fin 24) (A : Lanes) : Lanes := ((List.finRange 24).drop r.val).foldl keccakRound A

/-- From round 0 on they are the whole of PERMUTE. -/
@[simp] theorem permuteFrom_zero (A : Lanes) : permuteFrom 0 A = permute A := rfl

/-- One round, then the rest. -/
theorem permuteFrom_of_lt (r : Fin 24) (A : Lanes) (h : r.val < 23) :
    permuteFrom r A = permuteFrom ⟨r.val + 1, by omega⟩ (keccakRound A r) := by
  have hlen : r.val < (List.finRange 24).length := by simp
  rw [permuteFrom, List.drop_eq_getElem_cons hlen, List.foldl_cons, List.getElem_finRange]
  rfl

/-- After round 23 there is none. -/
theorem permuteFrom_last (r : Fin 24) (A : Lanes) (h : r.val = 23) : permuteFrom r A = keccakRound A r := by
  obtain rfl : r = 23 := Fin.ext h
  rfl

/-- The state in which the running permutation ends, from its current round on (R117, R119). -/
def drained (s : State) : State :=
  match s.fsm with
  | .idle => s
  | .permA => (s.setLanes (permuteFrom s.rnd s.lanes)).setSequencer .idle 0
  | .permF => ((s.setLanes (permuteFrom s.rnd s.lanes)).setSequencer .idle 0).setPhase .spent

/-- From round 0 on it is the end of the permutation that R172 collapses. -/
theorem drained_eq_finishPermutation {s : State} (h : s.rnd = 0) : drained s = finishPermutation s := by
  cases hfsm : s.fsm <;> simp only [drained, finishPermutation, hfsm, h, permuteFrom_zero]

theorem drained_of_idle {s : State} (h : s.fsm = .idle) : drained s = s := by
  simp only [drained, h]

theorem drained_of_permA {s : State} (h : s.fsm = .permA) :
    drained s = (s.setLanes (permuteFrom s.rnd s.lanes)).setSequencer .idle 0 := by
  simp only [drained, h]

theorem drained_of_permF {s : State} (h : s.fsm = .permF) :
    drained s = ((s.setLanes (permuteFrom s.rnd s.lanes)).setSequencer .idle 0).setPhase .spent := by
  simp only [drained, h]

/-- The permutation does not read the inputs. -/
@[simp] theorem drained_setInputs (s : State) (l : List PortInput) :
    drained (s.setInputs l) = (drained s).setInputs l := by
  cases h : s.fsm <;> simp only [drained, State.setInputs_fsm, h] <;> rfl

@[simp] theorem drained_fsm (s : State) : (drained s).fsm = .idle := by
  cases h : s.fsm <;> simp [drained, h]

/-- What a step does to the registers of a busy engine (R110, R117, R119). -/
def busyStep (s : State) : State :=
  if s.fsm = .permF ∧ s.rnd = 23 then (roundStep s.rnd s).setPhase .spent else roundStep s.rnd s

theorem busyStep_of_permA {s : State} (h : s.fsm = .permA) : busyStep s = roundStep s.rnd s := by
  simp [busyStep, h]

theorem busyStep_of_permF {s : State} (h : s.fsm = .permF) :
    busyStep s = if s.rnd = 23 then (roundStep s.rnd s).setPhase .spent else roundStep s.rnd s := by
  simp only [busyStep, h, true_and]

/-- Below round 23 the two permutations go the same way (R117, R119). -/
theorem busyStep_of_lt {s : State} (h : s.rnd.val < 23) :
    busyStep s = (s.setLanes (keccakRound s.lanes s.rnd)).setSequencer s.fsm ⟨s.rnd.val + 1, by omega⟩ := by
  have hnot : ¬(s.fsm = .permF ∧ s.rnd = 23) := fun hF => absurd (congrArg Fin.val hF.2) (Nat.ne_of_lt h)
  simp only [busyStep, if_neg hnot, roundStep, dif_neg (Nat.ne_of_lt h)]

/-- A step of a busy engine without `rst`. -/
theorem step_of_busy {s : State} (hrst : s.sampled.rst = false) (hbusy : s.fsm ≠ .idle) :
    step s = .next (busyStep s.afterSample) := by
  obtain ⟨h, -⟩ | ⟨-, hfsm, he⟩ | ⟨-, hfsm, he⟩ | ⟨-, hidle, -⟩ | ⟨-, hidle, -⟩ :=
    engineStep_cases s.sampled s.afterSample
  · exact nomatch hrst.symm.trans h
  · rw [step, he, execPermA_roundBits, busyStep_of_permA hfsm]
  · rw [step, he, execPermF_roundBits, busyStep_of_permF hfsm]
  · exact absurd hidle hbusy
  · exact absurd hidle hbusy

@[simp] theorem busyStep_inputs (s : State) : (busyStep s).inputs = s.inputs := by
  unfold busyStep
  split_ifs <;> simp

/-- The last busy step ends the permutation. -/
theorem busyStep_of_last {s : State} (hbusy : s.fsm ≠ .idle) (hlast : s.rnd = 23) : busyStep s = drained s := by
  have hround : roundStep s.rnd s = (s.setLanes (permuteFrom s.rnd s.lanes)).setSequencer .idle 0 := by
    have hval : s.rnd.val = 23 := congrArg Fin.val hlast
    simp only [roundStep, dif_pos hval, permuteFrom_last s.rnd s.lanes hval]
  cases hfsm : s.fsm with
  | idle => exact absurd hfsm hbusy
  | permA => rw [busyStep_of_permA hfsm, drained_of_permA hfsm, hround]
  | permF => rw [busyStep_of_permF hfsm, drained_of_permF hfsm, if_pos hlast, hround]

/-- A busy step leads to the same end. -/
theorem drained_busyStep {s : State} (hbusy : s.fsm ≠ .idle) : drained (busyStep s) = drained s := by
  by_cases hlast : s.rnd = 23
  · rw [busyStep_of_last hbusy hlast, drained_of_idle (drained_fsm s)]
  · have hlt : s.rnd.val < 23 := by omega
    rw [busyStep_of_lt hlt]
    cases hfsm : s.fsm with
    | idle => exact absurd hfsm hbusy
    | permA =>
      rw [drained_of_permA hfsm, drained_of_permA (State.setSequencer_fsm ..), permuteFrom_of_lt s.rnd s.lanes hlt]
      simp only [State.setLanes, State.setSequencer]
    | permF =>
      rw [drained_of_permF hfsm, drained_of_permF (State.setSequencer_fsm ..), permuteFrom_of_lt s.rnd s.lanes hlt]
      simp only [State.setLanes, State.setSequencer, State.setPhase]

/-- A busy step is one step nearer to readiness (R121). -/
theorem busySteps_of_busy {s : State} (hbusy : s.fsm ≠ .idle) : s.busySteps = (busyStep s).busySteps + 1 := by
  by_cases hlast : s.rnd = 23
  · simp [State.busySteps, busyStep_of_last hbusy hlast, hbusy, hlast]
  · have hlt : s.rnd.val < 23 := by omega
    simp only [busyStep_of_lt hlt, State.busySteps, State.setSequencer_fsm, State.setSequencer_rnd, if_neg hbusy]
    omega

/-- The engine is ready exactly when no busy step is left. -/
theorem busySteps_eq_zero_iff (s : State) : s.busySteps = 0 ↔ s.fsm = .idle := by
  unfold State.busySteps
  split_ifs with hidle
  · simp [hidle]
  · have := s.rnd.isLt
    simp only [hidle, iff_false]
    omega

/-- The busy steps of a run without `rst` end the running permutation, whatever is presented meanwhile (R121). -/
theorem run_busySteps {s : State} (hfree : rstFree s.busySteps s = true) :
    run s.busySteps s = .next ((drained s).setInputs (s.inputs.drop s.busySteps)) := by
  generalize hn : s.busySteps = n at hfree
  induction n generalizing s with
  | zero =>
    rw [drained_of_idle ((busySteps_eq_zero_iff s).mp hn)]
    rfl
  | succ n ih =>
    have hbusy : s.fsm ≠ .idle := fun h => by simp [(busySteps_eq_zero_iff s).mpr h] at hn
    rw [rstFree_succ, Bool.and_eq_true, Bool.not_eq_true'] at hfree
    obtain ⟨hrst, hfree⟩ := hfree
    have hleft : (busyStep s.afterSample).busySteps = n :=
      Nat.succ.inj ((busySteps_of_busy (s := s.afterSample) hbusy).symm.trans hn)
    have hfree' : rstFree n (busyStep s.afterSample) = true := by
      simpa only [rstFree, busyStep_inputs] using hfree
    rw [run_succ_of_step (step_of_busy hrst hbusy), ih hleft hfree', drained_busyStep (s := s.afterSample) hbusy,
      busyStep_inputs, State.afterSample, drained_setInputs, State.setInputs_setInputs, State.setInputs_inputs,
      List.drop_tail]

/-- The same for a host that presents anything but `rst` while the engine is busy (R121). -/
theorem run_busySteps_setInputs (s : State) {l : List PortInput} (hlen : l.length = s.busySteps)
    (hfree : ∀ p ∈ l, p.rst = false) (l' : List PortInput) :
    run s.busySteps (s.setInputs (l ++ l')) = .next ((drained s).setInputs l') := by
  have hrun : rstFree (s.setInputs (l ++ l')).busySteps (s.setInputs (l ++ l')) = true := by
    change rstFree s.busySteps _ = true
    simpa [rstFree, ← hlen] using hfree
  have hend := run_busySteps hrun
  change run s.busySteps _ = .next ((drained (s.setInputs (l ++ l'))).setInputs ((l ++ l').drop s.busySteps)) at hend
  rw [hend, ← hlen, List.drop_left, drained_setInputs, State.setInputs_setInputs]

end Sys2Proof.Machine

/-! PROOFS. Command streams of a waiting host: what a line does, and streams one after the other (R79, R82, R165). -/

namespace Sys2Proof.Machine

/-- The word a host presents is the word the port carries (R70). -/
@[simp] theorem word_present (cw : CmdWord) : (PortInput.present cw).word = cw :=
  cmdWordOf_cmdOp_cmdData cw

@[simp] theorem rst_present (cw : CmdWord) : (PortInput.present cw).rst = false := rfl

/-- An idle engine runs the command presented to it (R37, R110). -/
theorem step_of_idle_present {s : State} (hidle : s.fsm = .idle) (cw : CmdWord) (l : List PortInput) :
    step (s.setInputs (PortInput.present cw :: l)) = exec (decodeCmd cw) (s.setInputs l) := by
  have hready : (s.setInputs l).cmdReady = true := decide_eq_true hidle
  have hselected : selected (PortInput.present cw) (s.setInputs l) = .ok (some (decodeCmd cw)) := by
    rw [selected_of_valid hready rfl, ← cmdWordOf, ← PortInput.word, word_present]
  change engineStep (PortInput.present cw) (s.setInputs l) = _
  simp [engineStep, hselected]

theorem run_one (s : State) : run 1 s = step s := by
  rw [run_succ]
  cases step s <;> rfl

/-- A command line waits for the running permutation to end and then runs its command (R165). -/
theorem runLine_cmd (cw : CmdWord) (s : State) :
    runLine (.cmd cw) s = exec (decodeCmd cw) ((drained s).setInputs []) := by
  have hwait := run_busySteps_setInputs s (List.length_replicate (n := s.busySteps) (a := PortInput.present cw))
    (by simp) [PortInput.present cw]
  rw [runLine, runInputs, Line.inputs, List.length_append, List.length_replicate, List.length_singleton,
    run_add 1 hwait, run_one, step_of_idle_present (drained_fsm s)]

/-- `.wait` lets the running permutation end (R79). -/
theorem runLine_wait (s : State) : runLine .wait s = .next ((drained s).setInputs []) := by
  have hwait := run_busySteps_setInputs s (List.length_replicate (n := s.busySteps) (a := PortInput.idle))
    (by simp [PortInput.idle]) []
  rw [List.append_nil] at hwait
  rw [runLine, runInputs, Line.inputs, List.length_replicate, hwait]

@[simp] theorem runScript_nil (s : State) : runScript [] s = .next s := rfl

/-- A stream goes on from the state its first line leads to. -/
theorem runScript_cons_of_runLine {l : Line} {s t : State} (h : runLine l s = .next t) (ls : List Line) :
    runScript (l :: ls) s = runScript ls t := by
  rw [runScript, h]

/-- Two streams in sequence. -/
theorem runScript_append {ls : List Line} {s t : State} (h : runScript ls s = .next t) (ls' : List Line) :
    runScript (ls ++ ls') s = runScript ls' t := by
  induction ls generalizing s with
  | nil => rw [List.nil_append, next_inj h]
  | cons l ls ih =>
    rw [runScript] at h
    cases hline : runLine l s with
    | next u =>
      rw [hline] at h
      rw [List.cons_append, runScript_cons_of_runLine hline, ih h]
    | fault f => rw [hline] at h; cases h
    | refused r => rw [hline] at h; cases h

/-- RESET leads from every state to the reset state (R114, R124). -/
theorem runLine_resetLine (s : State) : runLine resetLine s = .next State.reset := by
  have hreset : decodeCmd 0x300 = .reset := decodeCmd_cmdWordOf_reset 0
  rw [resetLine, runLine_cmd, hreset, exec_reset, execReset, clearEngine_eq]
  rfl

end Sys2Proof.Machine

/-! PROOFS. The closed form of R122 block by block, and the engine's lanes and buffer as the part of it that the
message received so far determines. -/

namespace Sys2Proof.Machine

/-! ## Blocks of a message -/

/-- The lanes after the first n blocks of `M` (R122). -/
def absorbBlocks (M : List Byte) (n : Nat) : Lanes :=
  (List.range n).foldl (fun A q => permute (absorbBlock A (messageBlock M q))) zeroLanes

@[simp] theorem absorbBlocks_zero (M : List Byte) : absorbBlocks M 0 = zeroLanes := rfl

theorem absorbBlocks_succ (M : List Byte) (n : Nat) :
    absorbBlocks M (n + 1) = permute (absorbBlock (absorbBlocks M n) (messageBlock M n)) := by
  simp only [absorbBlocks, List.range_succ, List.foldl_append, List.foldl_cons, List.foldl_nil]

/-- The closed form absorbs all blocks of the padded message (R122). -/
theorem spongeLanes_eq_absorbBlocks (m : List Byte) :
    spongeLanes m = absorbBlocks (paddedMessage m) (m.length / 136 + 1) := rfl

/-- Only the first n blocks count. -/
theorem absorbBlocks_congr {M M' : List Byte} {n : Nat} (h : ∀ q < n, messageBlock M q = messageBlock M' q) :
    absorbBlocks M n = absorbBlocks M' n :=
  List.foldl_ext _ _ _ fun A q hq => by rw [h q (List.mem_range.mp hq)]

/-- Byte j of a block (R122). -/
theorem getElem_messageBlock (M : List Byte) (q j : Nat) (hj : j < 136) :
    (messageBlock M q)[j] = M.getD (136 * q + j) 0 := by
  simp [messageBlock]

/-- A whole block of `M` does not see what follows `M`. -/
theorem messageBlock_append (M N : List Byte) {q : Nat} (h : 136 * (q + 1) ≤ M.length) :
    messageBlock (M ++ N) q = messageBlock M q := by
  apply Vector.ext
  intro j hj
  rw [getElem_messageBlock, getElem_messageBlock, List.getD_append _ _ _ _ (by omega)]

/-- Nor do the whole blocks of `M` together. -/
theorem absorbBlocks_append (M N : List Byte) {n : Nat} (h : 136 * n ≤ M.length) :
    absorbBlocks (M ++ N) n = absorbBlocks M n :=
  absorbBlocks_congr fun _ hq => messageBlock_append M N (by omega)

/-! ## Padding -/

/-- Before its last byte is marked, the padded message holds at each place the byte of R115. -/
theorem getD_append_domain_replicate (m : List Byte) (z k : Nat) :
    (m ++ [Config.domain] ++ List.replicate z 0).getD k 0 = padByte m k := by
  unfold padByte
  split_ifs with hlt heq
  · rw [List.append_assoc, List.getD_append _ _ _ _ hlt]
  · simp [heq]
  · have hge : (m ++ [Config.domain]).length ≤ k := by
      rw [List.length_append, List.length_singleton]
      omega
    rw [List.getD_append_right _ _ _ _ hge, List.getD_eq_getElem?_getD, List.getElem?_getD_replicate_default_eq]

/-- The padded message ends with the block in which `m` ends (R122). -/
theorem length_paddedMessage (m : List Byte) : (paddedMessage m).length = 136 * (m.length / 136 + 1) := by
  simp only [paddedMessage, List.length_modify, List.length_append, List.length_singleton, List.length_replicate,
    Config.rate]
  omega

/-- The padded message byte by byte (R122). -/
theorem getD_paddedMessage (m : List Byte) {k : Nat} (hk : k < 136 * (m.length / 136 + 1)) :
    (paddedMessage m).getD k 0 =
      if k + 1 = 136 * (m.length / 136 + 1) then padByte m k ||| Config.padEnd else padByte m k := by
  have hlen := length_paddedMessage m
  simp only [paddedMessage, List.length_modify] at hlen ⊢
  generalize hl : m ++ [Config.domain] ++ List.replicate _ 0 = l at hlen
  have hbyte : l.getD k 0 = padByte m k := hl ▸ getD_append_domain_replicate m _ k
  have hget : l[k]? = some l[k] := List.getElem?_eq_getElem (hlen ▸ hk)
  have hlast : l.length - 1 = k ↔ k + 1 = 136 * (m.length / 136 + 1) := by omega
  simp only [List.getD_eq_getElem?_getD, hget, Option.getD_some] at hbyte
  rw [List.getD_eq_getElem?_getD, List.getElem?_modify, hget, ← hbyte]
  simp only [hlast, Option.map_eq_map, Option.map_some, Option.getD_some]

/-- PAD of the message past a whole number of blocks, read at its place in the message (R115, R122). -/
theorem padByte_drop (m : List Byte) {n : Nat} (hn : n ≤ m.length) (j : Nat) :
    padByte (m.drop n) j = padByte m (n + j) := by
  have hlt : j < m.length - n ↔ n + j < m.length := by omega
  have heq : j = m.length - n ↔ n + j = m.length := by omega
  simp only [padByte, List.length_drop, hlt, heq, List.getD_eq_getElem?_getD, List.getElem?_drop]

/-- The blocks before the last are message bytes (R122). -/
theorem messageBlock_paddedMessage_of_lt (m : List Byte) {q : Nat} (hq : q < m.length / 136) :
    messageBlock (paddedMessage m) q = messageBlock m q := by
  apply Vector.ext
  intro j hj
  have hmessage : 136 * q + j < m.length := by omega
  have hnotLast : ¬136 * q + j + 1 = 136 * (m.length / 136 + 1) := by omega
  rw [getElem_messageBlock, getElem_messageBlock, getD_paddedMessage m (by omega), if_neg hnotLast, padByte,
    if_pos hmessage]

/-- The last block is PAD of the remainder (R115, R122). -/
theorem messageBlock_paddedMessage_last (m : List Byte) {buf : Buffer}
    (hbuf : buf.bytes = m.drop (136 * (m.length / 136))) :
    messageBlock (paddedMessage m) (m.length / 136) = pad buf := by
  apply Vector.ext
  intro j hj
  have hlast : 136 * (m.length / 136) + j + 1 = 136 * (m.length / 136 + 1) ↔ j = 135 := by omega
  rw [getElem_messageBlock, getD_paddedMessage m (by omega), ← padByte_drop m (by omega), ← hbuf]
  simp only [hlast, pad, Vector.getElem_ofFn]

end Sys2Proof.Machine

/-! PROOFS. HASH from every state (R82, R122, R124): the engine between commands, as the message received so far
determines it, and its end after FINALIZE. -/

namespace Sys2Proof.Machine

/-! ## The commands outside SPENT -/

theorem execUpdate_of_room {b : Byte} {s : State} (hopen : s.phase ≠ .spent) (hroom : s.buf.blen < 135) :
    execUpdate b s = .next ((s.setPhase .absorbing).setBuf (s.buf.push b hroom)) := by
  rw [execUpdate, if_neg hopen, dif_pos hroom]

theorem execUpdate_of_full {b : Byte} {s : State} (hopen : s.phase ≠ .spent) (hfull : s.buf.blen = 135) :
    execUpdate b s = .next (absorbAndStart (fillBlock s.buf b) .permA (s.setPhase .absorbing)) := by
  rw [execUpdate, if_neg hopen, dif_neg (by omega)]

theorem execFinalize_of_open {s : State} (hopen : s.phase ≠ .spent) :
    execFinalize s = .next (absorbAndStart (pad s.buf) .permF (s.setPhase .absorbing)) := by
  rw [execFinalize, if_neg hopen]

/-- The end of the permutation that a filling UPDATE starts. -/
theorem drained_absorbAndStart_permA (block : Block) (s : State) :
    drained (absorbAndStart block .permA s) =
      ((s.setLanes (permute (absorbBlock s.lanes block))).setBuf Buffer.empty).setSequencer .idle 0 := by
  rw [absorbAndStart, drained_of_permA (State.setSequencer_fsm ..)]
  simp only [State.setLanes, State.setBuf, State.setSequencer, permuteFrom_zero]

/-- The end of the permutation that FINALIZE starts. -/
theorem drained_absorbAndStart_permF (block : Block) (s : State) :
    drained (absorbAndStart block .permF s) =
      (((s.setLanes (permute (absorbBlock s.lanes block))).setBuf Buffer.empty).setSequencer .idle 0).setPhase
        .spent := by
  rw [absorbAndStart, drained_of_permF (State.setSequencer_fsm ..)]
  simp only [State.setLanes, State.setBuf, State.setSequencer, State.setPhase, permuteFrom_zero]

/-! ## A message on its way -/

/-- An idle engine that has received `m` since a reset: the whole blocks of `m` are absorbed and permuted, the rest is
buffered, and the message is open (R25, R122). -/
structure Absorbed (m : List Byte) (s : State) : Prop where
  idle : s.fsm = .idle
  isOpen : s.phase ≠ .spent
  unmarked : s.err = false
  lanes : s.lanes = absorbBlocks m (m.length / 136)
  buffered : s.buf.bytes = m.drop (136 * (m.length / 136))

/-- After a reset nothing has been received (R41). -/
theorem absorbed_reset : Absorbed [] State.reset := ⟨rfl, by decide, rfl, rfl, rfl⟩

/-- What has been received does not depend on the inputs to come. -/
theorem Absorbed.setInputs {m : List Byte} {s : State} (h : Absorbed m s) (l : List PortInput) :
    Absorbed m (s.setInputs l) := { h with }

theorem Absorbed.blen {m : List Byte} {s : State} (h : Absorbed m s) : s.buf.blen = m.length % 136 := by
  rw [Buffer.blen, h.buffered, List.length_drop]
  omega

/-- The block that UPDATE fills is the next block of the message (R112, R122). -/
theorem Absorbed.fillBlock_eq {m : List Byte} {s : State} (h : Absorbed m s) (hfull : s.buf.blen = 135) (b : Byte) :
    fillBlock s.buf b = messageBlock (m ++ [b]) (m.length / 136) := by
  have hlen := h.blen
  apply Vector.ext
  intro j hj
  rw [getElem_messageBlock, fillBlock, Vector.getElem_ofFn, h.buffered]
  by_cases hbuffered : j < 135
  · have hplace : 136 * (m.length / 136) + j < m.length := by omega
    rw [List.getD_append _ _ _ _ hplace]
    simp [List.getD_eq_getElem?_getD, hplace]
  · have hplace : 136 * (m.length / 136) + j = m.length := by omega
    simp [List.getD_eq_getElem?_getD, hplace]

/-- A byte that does not fill the buffer (R112). -/
theorem Absorbed.update_of_room {m : List Byte} {s : State} (h : Absorbed m s) (b : Byte) (hroom : s.buf.blen < 135) :
    Absorbed (m ++ [b]) ((s.setPhase .absorbing).setBuf (s.buf.push b hroom)) := by
  have hlen := h.blen
  have hlength : (m ++ [b]).length = m.length + 1 := List.length_append
  have hblocks : (m ++ [b]).length / 136 = m.length / 136 := by omega
  refine ⟨h.idle, by simp, h.unmarked, ?_, ?_⟩
  · rw [hblocks]
    exact h.lanes.trans (absorbBlocks_append m [b] (Nat.mul_div_le _ _)).symm
  · rw [hblocks, List.drop_append_of_le_length (by omega), ← h.buffered]
    rfl

/-- The byte that fills the buffer, once its permutation has ended (R112, R117). -/
theorem Absorbed.update_of_full {m : List Byte} {s : State} (h : Absorbed m s) (b : Byte) (hfull : s.buf.blen = 135) :
    Absorbed (m ++ [b]) (drained (absorbAndStart (fillBlock s.buf b) .permA (s.setPhase .absorbing))) := by
  have hlen := h.blen
  have hlength : (m ++ [b]).length = m.length + 1 := List.length_append
  have hblocks : (m ++ [b]).length / 136 = m.length / 136 + 1 := by omega
  rw [drained_absorbAndStart_permA]
  refine ⟨by simp, by simp, by simp [h.unmarked], ?_, ?_⟩
  · have hbefore : s.lanes = absorbBlocks (m ++ [b]) (m.length / 136) :=
      h.lanes.trans (absorbBlocks_append m [b] (Nat.mul_div_le _ _)).symm
    rw [hblocks, absorbBlocks_succ, ← hbefore, ← h.fillBlock_eq hfull b]
    simp
  · rw [hblocks, List.drop_eq_nil_of_le (by omega)]
    simp

/-- One more byte, up to the next idle state. -/
theorem Absorbed.update {m : List Byte} {s : State} (h : Absorbed m s) (b : Byte) :
    ∃ t, exec (.update b) s = .next t ∧ Absorbed (m ++ [b]) (drained t) := by
  rw [exec_update]
  by_cases hroom : s.buf.blen < 135
  · refine ⟨_, execUpdate_of_room h.isOpen hroom, ?_⟩
    rw [drained_of_idle (s := (s.setPhase .absorbing).setBuf (s.buf.push b hroom)) h.idle]
    exact h.update_of_room b hroom
  · have hfull : s.buf.blen = 135 := by have := s.buf.blen_le; omega
    exact ⟨_, execUpdate_of_full h.isOpen hfull, h.update_of_full b hfull⟩

/-- FINALIZE ends, with its permutation, in the lanes of the closed form (R113, R119, R122). -/
theorem Absorbed.finalize {m : List Byte} {s : State} (h : Absorbed m s) :
    ∃ t, exec .finalize s = .next t ∧
      (drained t).phase = .spent ∧ (drained t).err = false ∧ (drained t).lanes = spongeLanes m := by
  refine ⟨_, execFinalize_of_open h.isOpen, ?_⟩
  rw [drained_absorbAndStart_permF]
  refine ⟨by simp, by simp [h.unmarked], ?_⟩
  have hbefore : s.lanes = absorbBlocks (paddedMessage m) (m.length / 136) :=
    h.lanes.trans (absorbBlocks_congr fun q hq => (messageBlock_paddedMessage_of_lt m hq).symm)
  rw [spongeLanes_eq_absorbBlocks, absorbBlocks_succ, messageBlock_paddedMessage_last m h.buffered, ← hbefore]
  simp

/-! ## The streams of R82 -/

/-- `UPDATE_BYTES m`, byte by byte, each waiting for the permutation of the one before it. -/
theorem runScript_updateBytes {m₀ : List Byte} {s : State} (m : List Byte) (h : Absorbed m₀ (drained s)) :
    ∃ t, runScript (updateBytes m) s = .next t ∧ Absorbed (m₀ ++ m) (drained t) := by
  induction m generalizing m₀ s with
  | nil => exact ⟨s, rfl, by simpa using h⟩
  | cons b m ih =>
    obtain ⟨u, hexec, hu⟩ := (h.setInputs []).update b
    have hline : runLine (.cmd (cmdWordOf 0b01#2 b)) s = .next u := by
      rw [runLine_cmd, decodeCmd_cmdWordOf_update, hexec]
    obtain ⟨t, hrest, ht⟩ := ih hu
    refine ⟨t, ?_, by simpa using ht⟩
    exact (runScript_cons_of_runLine hline (updateBytes m)).trans hrest

/-- `FINALIZE` and `.wait`. -/
theorem runScript_finalizeLines {m : List Byte} {s : State} (h : Absorbed m (drained s)) :
    ∃ t, runScript finalizeLines s = .next t ∧
      t.fsm = .idle ∧ t.phase = .spent ∧ t.err = false ∧ t.lanes = spongeLanes m := by
  obtain ⟨u, hexec, hu⟩ := (h.setInputs []).finalize
  have hfinalize : decodeCmd 0x200 = .finalize := decodeCmd_cmdWordOf_finalize 0
  have hline : runLine (.cmd 0x200) s = .next u := by rw [runLine_cmd, hfinalize, hexec]
  refine ⟨(drained u).setInputs [], ?_, drained_fsm u, hu⟩
  rw [finalizeLines, runScript_cons_of_runLine hline, runScript_cons_of_runLine (runLine_wait u), runScript_nil]

/-- Settles O52: RESET leads to the reset state from everywhere, the bytes are absorbed from there, and FINALIZE ends
in the lanes of the closed form. -/
theorem hashFromAnyStateYieldsKeccak : Obligations.HashFromAnyStateYieldsKeccak := by
  intro s m
  have hreset : Absorbed [] (drained State.reset) := drained_of_idle (s := State.reset) rfl ▸ absorbed_reset
  obtain ⟨u, hbytes, hu⟩ := runScript_updateBytes m hreset
  obtain ⟨t, hfinalize, hidle, hspent, herr, hlanes⟩ := runScript_finalizeLines hu
  have hdigest : squeeze t.lanes = keccak256 m := congrArg squeeze hlanes
  have hvalid : t.digestValid = true := decide_eq_true hspent
  refine ⟨t, ?_, hvalid, herr, decide_eq_true hidle, ?_, ?_⟩
  · rw [hashLines, runScript_cons_of_runLine (runLine_resetLine s), messageLines, runScript_append hbytes, hfinalize]
  · simp [State.claimedDigest, hvalid, herr, hdigest]
  · rw [digest_of_spent hspent, hdigest]

end Sys2Proof.Machine

/-! PROOFS. The two tables and the five step mappings, lane by lane and bit by bit (R92 to R99, R101 to R103). -/

namespace Sys2Proof.Machine

/-! ## The tables -/

/-- Settles O38: closed facts about 24 rounds and 25 positions, each table against its recurrence. -/
theorem recurrencesGiveTheTables : Obligations.RecurrencesGiveTheTables := by
  have hconstants : ∀ ir : Fin 24, RC ir = rcByRecurrence ir.val := by decide +kernel
  have hoffsets : ∀ t : Fin 24, (ROT (rotWalk t.val).1 (rotWalk t.val).2).val = rotByRecurrence t.val := by decide
  have hwalk : ∀ x y : Fin 5, (x, y) ≠ (0, 0) → ∃ t : Fin 24, rotWalk t.val = (x, y) := by decide
  exact ⟨hconstants, hoffsets, rfl, hwalk⟩

/-! ## THETA -/

theorem thetaDiff_eq_rotateLeft (A : Lanes) (x : Fin 5) :
    thetaDiff A x = columnParity A (x - 1) ^^^ (columnParity A (x + 1)).rotateLeft 1 := by
  rw [thetaDiff, rotl64_eq_rotateLeft]
  rfl

/-- A value XOR-ed into all five lanes of a column enters its parity once: the other four copies cancel. -/
theorem xor_five_cancel (a b c d e v : Lane) :
    (a ^^^ v) ^^^ (b ^^^ v) ^^^ (c ^^^ v) ^^^ (d ^^^ v) ^^^ (e ^^^ v) = a ^^^ b ^^^ c ^^^ d ^^^ e ^^^ v := by
  have hpair (p q : Lane) : (p ^^^ v) ^^^ (q ^^^ v) = p ^^^ q := by
    rw [BitVec.xor_comm q v, BitVec.xor_assoc p v, ← BitVec.xor_assoc v v q, BitVec.xor_self, BitVec.zero_xor]
  rw [hpair a b, BitVec.xor_assoc (a ^^^ b), hpair c d]
  simp only [BitVec.xor_assoc]

theorem columnParity_theta (A : Lanes) (x : Fin 5) :
    columnParity (theta A) x = columnParity A x ^^^ thetaDiff A x := by
  simp only [columnParity, lane_theta, xor_five_cancel]

/-- Settles O32: each lane takes the column's difference, so its parity takes it an odd number of times. -/
theorem thetaMixesColumnParities : Obligations.ThetaMixesColumnParities := by
  intro A x y
  rw [← thetaDiff_eq_rotateLeft]
  exact ⟨rfl, lane_theta A x y, columnParity_theta A x⟩

/-! ## RHO -/

/-- Bit i of a lane rotated left by n stands at bit `(i + n) mod 64` (R11). -/
theorem getLsbD_rotl64 (a : Lane) (n i : Fin 64) : (rotl64 a n).getLsbD ((i.val + n.val) % 64) = a.getLsbD i.val := by
  rw [rotl64_eq_rotateLeft, BitVec.getLsbD_rotateLeft, Nat.mod_eq_of_lt n.isLt]
  by_cases hwrap : i.val + n.val < 64
  · have hlow : ¬ i.val + n.val < n.val := by omega
    simp [Nat.mod_eq_of_lt hwrap, hlow, hwrap]
  · have hmod : (i.val + n.val) % 64 = i.val + n.val - 64 := by omega
    have hlow : i.val + n.val - 64 < n.val := by omega
    have hbit : 64 - n.val + (i.val + n.val - 64) = i.val := by omega
    rw [hmod, decide_eq_true hlow, cond_true, hbit]

@[simp] theorem rotl64_zero (a : Lane) : rotl64 a 0 = a := rfl

theorem ROT_zero_zero : ROT 0 0 = 0 := rfl

/-- Settles O33. -/
theorem rhoRotatesEachLaneByItsOffset : Obligations.RhoRotatesEachLaneByItsOffset := by
  intro A x y
  refine ⟨fun i => ?_, ?_⟩
  · rw [lane_rho, getLsbD_rotl64]
  · rw [lane_rho, ROT_zero_zero, rotl64_zero]

/-! ## PI -/

/-- The source the model reads, `(x'+3y', x')`, undoes the rule's destination `(x', y') = (y, 2x+3y)`. -/
theorem piSource_piTarget (x y : Fin 5) : y + 3 * (2 * x + 3 * y) = x := by
  revert x y; decide

/-- The rule's destination undoes the source the model reads. -/
theorem piTarget_piSource (x y : Fin 5) : 2 * (x + 3 * y) + 3 * x = y := by
  revert x y; decide

/-- Settles O34: reading from the destination inverts the rule's relocation, on both sides. -/
theorem piMovesEachLaneToItsPlace : Obligations.PiMovesEachLaneToItsPlace := by
  refine ⟨fun A x y => ?_, Function.bijective_iff_has_inverse.mpr ⟨fun q => (q.1 + 3 * q.2, q.1), ?_, ?_⟩⟩
  · rw [lane_pi, piSource_piTarget]
  · exact fun p => Prod.ext (piSource_piTarget p.1 p.2) rfl
  · exact fun q => Prod.ext rfl (piTarget_piSource q.1 q.2)

/-! ## RHO and PI together -/

/-- The lane of PI of RHO at (x,y): the lane at PI's source, rotated by the source's offset. -/
theorem lane_pi_rho (A : Lanes) (x y : Fin 5) :
    lane (pi (rho A)) x y = rotl64 (lane A (x + 3 * y) x) (ROT (x + 3 * y) x) := by
  rw [lane_pi, lane_rho]

/-- Line "source i" of R101 lists PI's sources as linear indices. -/
theorem rhoPiSource_eq (x y : Fin 5) :
    (rhoPiSource[x.val + 5 * y.val]'(by omega)).val = (x + 3 * y).val + 5 * x.val := by
  revert x y; decide

/-- Line "rotate by" of R101 lists the offsets of PI's sources. -/
theorem rhoPiRotate_eq (x y : Fin 5) : rhoPiRotate[x.val + 5 * y.val]'(by omega) = ROT (x + 3 * y) x := by
  revert x y; decide

theorem lane_rhoPiFused (A : Lanes) (x y : Fin 5) :
    lane (rhoPiFused A) x y = rotl64 (lane A (x + 3 * y) x) (ROT (x + 3 * y) x) := by
  simp [lane, rhoPiFused, rhoPiSource_eq, rhoPiRotate_eq]

/-- Settles O37: the same lane at every position. -/
theorem rhoThenPiIsTheFusedTable : Obligations.RhoThenPiIsTheFusedTable := fun A =>
  lanes_ext fun x y => (lane_pi_rho A x y).trans (lane_rhoPiFused A x y).symm

/-! ## CHI -/

/-- Settles O35. -/
theorem chiCombinesEachRow : Obligations.ChiCombinesEachRow := by
  intro A x y i hi
  rw [lane_chi, BitVec.getLsbD_xor, BitVec.getLsbD_and, BitVec.getLsbD_not, decide_eq_true hi, Bool.true_and]

/-! ## IOTA -/

/-- IOTA as an XOR into every lane, zero everywhere but in lane (0,0) (R98). -/
theorem lane_iota (A : Lanes) (ir : Fin 24) (x y : Fin 5) :
    lane (iota A ir) x y = lane A x y ^^^ (if x = 0 ∧ y = 0 then RC ir else 0) := by
  by_cases hzero : x = 0 ∧ y = 0
  · obtain ⟨rfl, rfl⟩ := hzero
    simp [lane, iota]
  · have hindex : 0 ≠ x.val + 5 * y.val := by omega
    simp [lane, iota, hzero, Vector.getElem_set_ne _ _ hindex]

/-- Settles O36: the two XORs of the second application cancel in every lane. -/
theorem iotaTouchesLaneZeroOnly : Obligations.IotaTouchesLaneZeroOnly := by
  intro A ir
  refine ⟨?_, fun x y hxy => ?_, lanes_ext fun x y => ?_⟩
  · rw [lane_iota, if_pos ⟨rfl, rfl⟩]
  · have hnot : ¬(x = 0 ∧ y = 0) := fun h => hxy (Prod.ext h.1 h.2)
    rw [lane_iota, if_neg hnot]
    exact BitVec.xor_zero
  · rw [lane_iota, lane_iota, BitVec.xor_assoc, BitVec.xor_self, BitVec.xor_zero]

/-! ## The round -/

/-- Settles O56: CHI and IOTA read the lanes after PI, and PI's source of (x,y) is the place whose lane the hypothesis
on `B` sends to (x,y). -/
theorem roundIsTheFiveMappingsInOrder : Obligations.RoundIsTheFiveMappingsInOrder := by
  refine fun A ir => ⟨rfl, fun C B hC hB => ?_⟩
  have hparity (x : Fin 5) : columnParity A x = C x := (hC x).symm
  have hmoved (x y : Fin 5) : lane (pi (rho (theta A))) x y = B x y := by
    have hplace := hB (x + 3 * y) x
    rw [piTarget_piSource] at hplace
    rw [lane_pi_rho, rotl64_eq_rotateLeft, lane_theta, thetaDiff_eq_rotateLeft, hparity, hparity, hplace]
  intro x y
  rw [keccakRound, lane_iota, lane_chi, hmoved, hmoved, hmoved]

end Sys2Proof.Machine

/-! PROOFS. The states inside a running permutation, and its 24 steps from round 0 (R100, R117, R119, R125). -/

namespace Sys2Proof.Machine

/-- A longer stretch without `rst` covers a shorter one. -/
theorem rstFree_of_le {j k : Nat} {s : State} (hle : j ≤ k) (h : rstFree k s = true) : rstFree j s = true := by
  rw [rstFree, List.all_eq_true] at h ⊢
  exact fun p hp => h p (List.take_subset_take_left s.inputs hle hp)

/-- A busy step below round 23 counts the round index up and leaves `fsm` and `phase` (R117, R119). -/
theorem busyStep_frame_of_lt {s : State} (h : s.rnd.val < 23) :
    (busyStep s).rnd.val = s.rnd.val + 1 ∧ (busyStep s).fsm = s.fsm ∧ (busyStep s).phase = s.phase := by
  simp [busyStep_of_lt h]

/-- Before its last round is done a permutation only counts: k steps on, the round index is k further, and `fsm` and
`phase` are as they were (R117, R119). -/
theorem run_within_permutation (k : Nat) {s : State} (hbusy : s.fsm ≠ .idle) (hfree : rstFree k s = true)
    (hk : s.rnd.val + k < 24) :
    ∃ u, run k s = .next u ∧ u.rnd.val = s.rnd.val + k ∧ u.fsm = s.fsm ∧ u.phase = s.phase := by
  induction k generalizing s with
  | zero => exact ⟨s, rfl, rfl, rfl, rfl⟩
  | succ k ih =>
    rw [rstFree_succ, Bool.and_eq_true, Bool.not_eq_true'] at hfree
    obtain ⟨hrst, hfree⟩ := hfree
    have hlt : s.rnd.val < 23 := by omega
    obtain ⟨hrnd, hfsm, hphase⟩ : (busyStep s.afterSample).rnd.val = s.rnd.val + 1 ∧
        (busyStep s.afterSample).fsm = s.fsm ∧ (busyStep s.afterSample).phase = s.phase :=
      busyStep_frame_of_lt (s := s.afterSample) hlt
    have hfree' : rstFree k (busyStep s.afterSample) = true := by
      simpa only [rstFree, busyStep_inputs] using hfree
    obtain ⟨u, hrun, hrndu, hfsmu, hphaseu⟩ := ih (hfsm ▸ hbusy) hfree' (by omega)
    exact ⟨u, (run_succ_of_step (step_of_busy hrst hbusy) k).trans hrun, by omega, hfsmu.trans hfsm,
      hphaseu.trans hphase⟩

/-- The end of a permutation that stands at round 0, as one record (R100, R117, R119). -/
theorem drained_of_round_zero {s : State} (hbusy : s.fsm ≠ .idle) (hzero : s.rnd = 0) :
    drained s =
      { s with
        lanes := permute s.lanes, fsm := .idle, rnd := 0,
        phase := if s.fsm = .permF then .spent else s.phase } := by
  rw [drained_eq_finishPermutation hzero]
  cases hfsm : s.fsm with
  | idle => exact absurd hfsm hbusy
  | permA => simp [finishPermutation, hfsm, State.setLanes, State.setSequencer]
  | permF => simp [finishPermutation, hfsm, State.setLanes, State.setSequencer, State.setPhase]

/-- Settles O39: the states before the last round is done only count, and the 24 busy steps lead to the end of the
permutation. -/
theorem twentyFourStepsApplyPermute : Obligations.TwentyFourStepsApplyPermute := by
  intro s hbusy hzero hfree
  refine ⟨fun k => ?_, ?_⟩
  · have hround : s.rnd.val + k.val = k.val := by simp [hzero]
    obtain ⟨u, hrun, hrnd, hfsm, hphase⟩ :=
      run_within_permutation k.val hbusy (rstFree_of_le k.isLt.le hfree) (hround.trans_lt k.isLt)
    exact ⟨u, hrun, Fin.ext (hrnd.trans hround), hfsm, hphase, decide_eq_false (hfsm ▸ hbusy)⟩
  · have hsteps : s.busySteps = 24 := by simp [State.busySteps, hbusy, hzero]
    have hend := run_busySteps (hsteps.symm ▸ hfree)
    rw [hsteps, drained_of_round_zero hbusy hzero] at hend
    exact hend

end Sys2Proof.Machine

/-! PROOFS. What an operation and a step answer, said forwards: an effect as the answer of `exec`, the step of R110 case
by case, the accepting step (R37), totality, and the reset forms (R111, R114, R161). -/

namespace Sys2Proof.Machine

/-! ## Operations -/

/-- Each listed effect is what the operation answers. -/
theorem Effect.exec_eq {i : Instr} {s t : State} (h : Effect s i t) : exec i s = .next t := by
  cases h with
  | nop => rfl
  | updateMisuse b hspent => rw [exec_update, execUpdate, if_pos hspent]
  | updateBuffers b hopen hroom => exact execUpdate_of_room hopen hroom
  | updateFills b hopen hfull => exact execUpdate_of_full hopen hfull
  | finalizeMisuse hspent => rw [exec_finalize, execFinalize, if_pos hspent]
  | finalizePads hopen => exact execFinalize_of_open hopen
  | reset => rfl
  | roundA r hr => rw [exec_permA, execPermA, dif_pos hr]
  | roundF r hr => rw [exec_permF, execPermF, dif_pos (by omega), if_neg (by omega)]
  | lastRoundF r hr => rw [exec_permF, execPermF, dif_pos (by omega), if_pos hr]

/-- A command word always has an effect: R74 gives every word a row, and every row answers in every state. -/
theorem exists_effect_decodeCmd (cw : CmdWord) (s : State) : ∃ t, Effect s (decodeCmd cw) t := by
  have hround := decodeCmd_ne_perm cw
  generalize decodeCmd cw = i at hround
  have hblen := s.buf.blen_le
  cases i with
  | nop => exact ⟨_, .nop⟩
  | update b =>
    by_cases hspent : s.phase = .spent
    · exact ⟨_, .updateMisuse b hspent⟩
    · by_cases hroom : s.buf.blen < 135
      · exact ⟨_, .updateBuffers b hspent hroom⟩
      · exact ⟨_, .updateFills b hspent (by omega)⟩
  | finalize =>
    by_cases hspent : s.phase = .spent
    · exact ⟨_, .finalizeMisuse hspent⟩
    · exact ⟨_, .finalizePads hspent⟩
  | reset => exact ⟨_, .reset⟩
  | permA r => exact absurd rfl (hround r).1
  | permF r => exact absurd rfl (hround r).2

/-- Settles O13. -/
theorem nopWritesNoRegister : Obligations.NopWritesNoRegister := exec_nop

/-- Settles O16: the cleared engine is the reset state with the inputs kept. -/
theorem resetCommandWritesEveryRegister : Obligations.ResetCommandWritesEveryRegister := by
  intro s
  rw [exec_reset, execReset, clearEngine_eq]
  rfl

/-! ## Steps -/

/-- Settles O8: the sequencer word of a running permutation selects its round step, and an idle engine selects the
presented word. -/
theorem stepRunsTheSelectedOperation : Obligations.StepRunsTheSelectedOperation := by
  intro s
  refine ⟨fun hrst => ?_, fun hrst hfsm => ?_, fun hrst hfsm => ?_, fun hrst hidle hvalid => ?_,
    fun hrst hidle hvalid => ?_⟩
  · simp [step, engineStep, hrst]
  · simp [step, engineStep, selected, hrst, hfsm, decodeSeq_seqWord_permA]
  · simp [step, engineStep, selected, hrst, hfsm, decodeSeq_seqWord_permF]
  · have hready : s.afterSample.cmdReady = true := decide_eq_true hidle
    simp [step, engineStep, hrst, selected_of_valid hready hvalid]
  · have hready : s.afterSample.cmdReady = true := decide_eq_true hidle
    simp [step, engineStep, hrst, selected_of_not_valid hready hvalid]

/-- A step that accepts a command is an idle step without `rst`, and it runs that command (R37, R110). -/
theorem step_of_acceptedCmd {s : State} {i : Instr} (h : s.acceptedCmd = some i) :
    s.sampled.rst = false ∧ s.fsm = .idle ∧ step s = exec i s.afterSample := by
  simp only [State.acceptedCmd, Option.ite_none_right_eq_some, Option.some.injEq, State.accepts, State.cmdReady,
    Bool.and_eq_true, Bool.not_eq_true', decide_eq_true_eq] at h
  obtain ⟨⟨⟨hrst, hvalid⟩, hidle⟩, rfl⟩ := h
  obtain ⟨-, -, -, hcommand, -⟩ := stepRunsTheSelectedOperation s
  exact ⟨hrst, hidle, hcommand hrst hidle hvalid⟩

/-- An idle step without `rst` that accepts nothing changes no register (R110). -/
theorem step_of_not_accepting {s : State} (hrst : s.sampled.rst = false) (hidle : s.fsm = .idle)
    (hnone : s.acceptedCmd = none) : step s = .next s.afterSample := by
  have hvalid : s.sampled.cmdValid = false := by simpa [acceptedCmd_of_idle hrst hidle] using hnone
  obtain ⟨-, -, -, -, hnothing⟩ := stepRunsTheSelectedOperation s
  exact hnothing hrst hidle hvalid

/-- A busy engine accepts nothing (R37). -/
theorem acceptedCmd_of_busy {s : State} (hbusy : s.fsm ≠ .idle) : s.acceptedCmd = none := by
  simp [State.acceptedCmd, State.accepts, State.cmdReady, hbusy]

/-- Settles O9: in each case of R110 the step has a next state, and the inputs are those left after the sampling. -/
theorem stepAlwaysAnswersNext : Obligations.StepAlwaysAnswersNext := by
  intro s
  obtain ⟨hreset, -, -, hcommand, hnothing⟩ := stepRunsTheSelectedOperation s
  cases hrst : s.sampled.rst with
  | true => exact ⟨_, hreset hrst, rfl⟩
  | false =>
    by_cases hidle : s.fsm = .idle
    · cases hvalid : s.sampled.cmdValid with
      | true =>
        obtain ⟨t, heff⟩ := exists_effect_decodeCmd (s.sampled.cmdOp ++ s.sampled.cmdData) s.afterSample
        obtain ⟨-, -, -, -, -, hinputs⟩ := registersChangeOnlyByTheirWriters _ _ t heff.exec_eq
        exact ⟨t, (hcommand hrst hidle hvalid).trans heff.exec_eq, hinputs⟩
      | false => exact ⟨_, hnothing hrst hidle hvalid, rfl⟩
    · exact ⟨_, step_of_busy hrst hidle, busyStep_inputs _⟩

/-- Settles O45: both forms of reset clear the engine, and the cleared engine is the reset state. -/
theorem resetLeavesNoTrace : Obligations.ResetLeavesNoTrace := by
  intro s t hstep hreset
  have hclear : step s = .next (clearEngine s.afterSample) := by
    obtain hrst | hcmd := hreset
    · obtain ⟨hhard, -⟩ := stepRunsTheSelectedOperation s
      exact hhard hrst
    · obtain ⟨-, -, hexec⟩ := step_of_acceptedCmd hcmd
      exact hexec
  rw [← next_inj (hclear.symm.trans hstep), clearEngine_eq]
  rfl

end Sys2Proof.Machine

/-! PROOFS. Blocks in the byte space: PAD byte by byte (R115), the blocks of a padded message (R122), ABSORB_BLOCK by
bytes and by lanes (R116), and the two commands that absorb (R112, R113). -/

namespace Sys2Proof.Machine

/-! ## PAD -/

/-- PAD in one equation: the bytes before its last line, and the end mark in byte 135 (R115). -/
theorem getElem_pad (buf : Buffer) (j : Nat) (hj : j < 136) :
    (pad buf)[j] = padByte buf.bytes j ||| (if j = 135 then 0x80#8 else 0x00#8) := by
  simp only [pad, Vector.getElem_ofFn]
  split_ifs
  · rfl
  · exact BitVec.or_zero.symm

theorem padByte_of_lt_blen {buf : Buffer} {j : Nat} (h : j < buf.blen) :
    padByte buf.bytes j = buf.bytes.getD j 0 :=
  if_pos h

theorem padByte_of_not_lt_blen {buf : Buffer} {j : Nat} (h : ¬j < buf.blen) :
    padByte buf.bytes j = if j = buf.blen then 0x01#8 else 0x00#8 :=
  if_neg h

/-- Settles O17: the clauses are the places of byte j against the buffer's length and byte 135. -/
theorem padLaysOutTheBlock : Obligations.PadLaysOutTheBlock := by
  intro m j
  have hbound := m.blen_le
  simp only [Fin.getElem_fin, getElem_pad]
  refine ⟨fun hlt => ?_, fun heq hne => ?_, fun hgt hne => ?_, fun hlast hfull => ?_, fun hlast hroom => ?_⟩
  · have hne : j.val ≠ 135 := by omega
    rw [padByte_of_lt_blen hlt, if_neg hne, BitVec.or_zero]
  · rw [padByte_of_not_lt_blen (by omega), if_pos heq, if_neg hne, BitVec.or_zero]
  · rw [padByte_of_not_lt_blen (by omega), if_neg (by omega), if_neg hne, BitVec.or_zero]
  · rw [padByte_of_not_lt_blen (by omega), if_pos (by omega), if_pos hlast]
    rfl
  · rw [padByte_of_not_lt_blen (by omega), if_neg (by omega), if_pos hlast]
    rfl

/-! ## The blocks of a message -/

/-- Settles O55: the blocks before the last are message bytes, and the last is PAD of the remainder. -/
theorem paddedMessageIsWholeBlocks : Obligations.PaddedMessageIsWholeBlocks := by
  refine fun m => ⟨length_paddedMessage m, fun q j hq => ?_, fun buf => messageBlock_paddedMessage_last m⟩
  rw [messageBlock_paddedMessage_of_lt m hq]
  exact getElem_messageBlock m q j.val j.isLt

/-! ## ABSORB_BLOCK -/

/-- A byte put below a number is its least significant digit in base 256. -/
theorem toNat_append_byte {w : Nat} (hi : BitVec w) (lo : Byte) : (hi ++ lo).toNat = lo.toNat + 256 * hi.toNat := by
  rw [BitVec.toNat_append, ← Nat.shiftLeft_add_eq_or_of_lt lo.isLt, Nat.shiftLeft_eq]
  omega

/-- A lane of a block is the little-endian number of its eight bytes (R116). -/
theorem toNat_blockLane (block : Block) (i : Fin 17) :
    (blockLane block i.val i.isLt).toNat =
      leNumber ((List.finRange 8).map fun j => block[8 * i.val + j.val]) := by
  have hdigits : List.finRange 8 = [0, 1, 2, 3, 4, 5, 6, 7] := rfl
  simp only [blockLane, toNat_append_byte, hdigits, List.map_cons, List.map_nil, leNumber, Nat.mul_zero, Nat.add_zero]
  rfl

/-- Byte j of a lane of a block is byte `8i + j` of the block (R116). -/
theorem extractLsb'_blockLane (block : Block) (i : Fin 17) (j : Fin 8) :
    (blockLane block i.val i.isLt).extractLsb' (8 * j.val) 8 = block[8 * i.val + j.val] := by
  apply BitVec.eq_of_toNat_eq
  rw [BitVec.extractLsb'_toNat, toNat_blockLane, Nat.shiftRight_eq_div_pow, Nat.pow_mul]
  refine (leNumber_div_pow_mod _ j.val).trans ?_
  simp

/-- Absorbing a block XORs its bytes into the rate (R116). -/
theorem stateByte_absorbBlock_rate (A : Lanes) (block : Block) {k : Fin 200} (hk : k.val < 136) :
    stateByte (absorbBlock A block) k = stateByte A k ^^^ block[k.val] := by
  have hlane : k.val / 8 < 17 := by omega
  have hbyte := extractLsb'_blockLane block ⟨k.val / 8, hlane⟩ ⟨k.val % 8, by omega⟩
  simp only [Nat.div_add_mod] at hbyte
  rw [stateByte, stateByte, absorbBlock_rate A block (k.val / 8) hlane, BitVec.extractLsb'_xor, hbyte]

/-- Settles O18: the rate by bytes and by lanes, and the capacity unchanged. -/
theorem absorbXorsTheRateBytes : Obligations.AbsorbXorsTheRateBytes := by
  refine fun A block => ⟨fun k => ?_, fun i => ?_, fun i hi => absorbBlock_capacity A block i.val i.isLt hi⟩
  · split_ifs with hk
    · exact stateByte_absorbBlock_rate A block hk
    · exact stateByte_absorbBlock_capacity A block (Nat.not_lt.mp hk)
  · rw [absorbBlock_rate A block i.val i.isLt, BitVec.toNat_xor, toNat_blockLane]

/-! ## The absorbing commands -/

/-- What absorbing and starting writes beside the lanes (R112, R113). -/
@[simp] theorem absorbAndStart_writes (block : Block) (f : Fsm) (s : State) :
    (absorbAndStart block f s).buf = Buffer.empty ∧ (absorbAndStart block f s).fsm = f ∧
      (absorbAndStart block f s).rnd = 0 := by
  simp [absorbAndStart]

/-- The block that UPDATE fills is the full buffer followed by the byte (R112). -/
theorem getElem_fillBlock {buf : Buffer} (hfull : buf.blen = 135) (b : Byte) {j : Nat} (hj : j < 136) :
    (fillBlock buf b)[j] = if j < 135 then buf.bytes.getD j 0 else b := by
  rw [Buffer.blen] at hfull
  rw [fillBlock, Vector.getElem_ofFn]
  split_ifs with hbuffered
  · rw [List.getD_eq_getElem _ _ (hfull ▸ hbuffered), List.getD_eq_getElem _ _ (hfull ▸ hbuffered)]
  · exact List.getD_eq_default _ _ (hfull ▸ Nat.not_lt.mp hbuffered)

/-- Settles O14, effect by effect. -/
theorem updateBuffersOrAbsorbs : Obligations.UpdateBuffersOrAbsorbs := by
  refine fun b s => ⟨fun hspent => (Effect.updateMisuse b hspent).exec_eq, fun hopen hroom => ?_, fun hopen hfull => ?_⟩
  · exact ⟨_, (Effect.updateBuffers b hopen hroom).exec_eq, by simp⟩
  · refine ⟨_, (Effect.updateFills b hopen hfull).exec_eq, fun k => ?_, by simp⟩
    simp only [absorbAndStart_frame, State.setPhase_lanes]
    by_cases hk : k.val < 136
    · have hlast : ¬k.val < 135 → k.val = 135 := by omega
      rw [stateByte_absorbBlock_rate _ _ hk, getElem_fillBlock hfull b hk]
      split_ifs with hbuffered hne
      · rfl
      · rfl
      · exact absurd (hlast hbuffered) hne
    · rw [stateByte_absorbBlock_capacity _ _ (Nat.not_lt.mp hk), if_neg (by omega), if_neg (by omega)]
      exact BitVec.xor_zero.symm

/-- Settles O15: FINALIZE absorbs PAD of the buffer, byte by byte as `getElem_pad` gives it. -/
theorem finalizeAbsorbsThePaddedBlock : Obligations.FinalizeAbsorbsThePaddedBlock := by
  refine fun s => ⟨fun hspent => (Effect.finalizeMisuse hspent).exec_eq, fun hopen => ?_⟩
  refine ⟨_, (Effect.finalizePads hopen).exec_eq, fun k => ?_, by simp⟩
  have hbound := s.buf.blen_le
  simp only [absorbAndStart_frame, State.setPhase_lanes]
  by_cases hk : k.val < 136
  · rw [stateByte_absorbBlock_rate _ _ hk, getElem_pad]
    by_cases hbuffered : k.val < s.buf.blen
    · have hne : k.val ≠ 135 := by omega
      rw [padByte_of_lt_blen hbuffered, if_neg hne, if_pos hbuffered, BitVec.or_zero]
    · rw [padByte_of_not_lt_blen hbuffered, if_neg hbuffered]
  · rw [stateByte_absorbBlock_capacity _ _ (Nat.not_lt.mp hk), if_neg (by omega), if_neg (by omega), if_neg (by omega),
      BitVec.or_zero, BitVec.xor_zero]

end Sys2Proof.Machine

/-! PROOFS. The two round steps (R117, R119), and how long a permutation keeps the engine busy: until readiness (R121)
and from FINALIZE to the digest (R113, R125). -/

namespace Sys2Proof.Machine

/-! ## The round steps -/

/-- A round step applies its round to the lanes, whichever round it is (R99, R117). -/
theorem roundStep_lanes (r : Fin 24) (s : State) : (roundStep r s).lanes = keccakRound s.lanes r := by
  by_cases h : r.val = 23
  · rw [roundStep_last r s h]
  · rw [roundStep_of_lt r s (by omega)]

/-- The sequencer after round 23 (R117). -/
theorem roundStep_sequencer_last (r : Fin 24) (s : State) (h : r.val = 23) :
    (roundStep r s).fsm = .idle ∧ (roundStep r s).rnd.val = 0 := by
  rw [roundStep_last r s h]
  exact ⟨rfl, rfl⟩

/-- The sequencer after an earlier round (R117). -/
theorem roundStep_sequencer_of_lt (r : Fin 24) (s : State) (h : r.val < 23) :
    (roundStep r s).fsm = s.fsm ∧ (roundStep r s).rnd.val = r.val + 1 := by
  rw [roundStep_of_lt r s h]
  exact ⟨rfl, rfl⟩

/-- Settles O19: PERM.A is the round step itself. -/
theorem permADoesOneRound : Obligations.PermADoesOneRound := by
  intro r s h
  have hr : r.toNat < 24 := by omega
  exact ⟨_, (Effect.roundA r hr).exec_eq, roundStep_lanes _ s, roundStep_sequencer_last ⟨r.toNat, hr⟩ s,
    roundStep_sequencer_of_lt ⟨r.toNat, hr⟩ s, roundStep_frame ⟨r.toNat, hr⟩ s⟩

/-- Settles O20: PERM.F is the round step, followed by the phase write when the index is 23. -/
theorem permFDoesOneRoundAndFinishesSpent : Obligations.PermFDoesOneRoundAndFinishesSpent := by
  intro r s h
  have hr : r.toNat < 24 := by omega
  obtain ⟨hbuf, hphase, herr, hecause, hinputs⟩ := roundStep_frame ⟨r.toNat, hr⟩ s
  by_cases hlast : r.toNat = 23
  · obtain ⟨hfsm, hrnd⟩ := roundStep_sequencer_last ⟨r.toNat, hr⟩ s hlast
    exact ⟨_, (Effect.lastRoundF r hlast).exec_eq, roundStep_lanes _ s, fun _ => ⟨hfsm, hrnd, rfl⟩,
      fun hlt => absurd hlast hlt.ne, hbuf, herr, hecause, hinputs⟩
  · have hlt : r.toNat < 23 := by omega
    obtain ⟨hfsm, hrnd⟩ := roundStep_sequencer_of_lt ⟨r.toNat, hr⟩ s hlt
    exact ⟨_, (Effect.roundF r hlt).exec_eq, roundStep_lanes _ s, fun h23 => absurd h23 hlast,
      fun _ => ⟨hfsm, hrnd, hphase⟩, hbuf, herr, hecause, hinputs⟩

/-! ## Busy steps -/

/-- A state with busy steps left is busy, and its permutation has that many rounds to go (R121). -/
theorem busy_of_lt_busySteps {s : State} {k : Nat} (hk : k < s.busySteps) :
    s.fsm ≠ .idle ∧ s.rnd.val + k < 24 := by
  have hbusy : s.fsm ≠ .idle := fun hidle => by simp [(busySteps_eq_zero_iff s).mpr hidle] at hk
  rw [State.busySteps, if_neg hbusy] at hk
  exact ⟨hbusy, by omega⟩

/-- Settles O43: the busy steps end the permutation, and every state before that is inside it. -/
theorem busyAtMostTwentyFourSteps : Obligations.BusyAtMostTwentyFourSteps := by
  refine fun s => ⟨?_, fun hfree => ⟨_, run_busySteps hfree, ?_⟩, fun k u hk hfree hrun => ?_⟩
  · unfold State.busySteps
    split_ifs <;> omega
  · exact decide_eq_true (drained_fsm s)
  · obtain ⟨hbusy, hrounds⟩ := busy_of_lt_busySteps hk
    obtain ⟨v, hrun', -, hfsm, -⟩ := run_within_permutation k hbusy hfree hrounds
    obtain rfl : u = v := next_inj (hrun.symm.trans hrun')
    exact decide_eq_false (hfsm ▸ hbusy)

/-- A step consumes one input, so a stretch without `rst` goes on from the state it answers. -/
theorem rstFree_of_step {k : Nat} {s t : State} (hstep : step s = .next t) (hfree : rstFree (k + 1) s = true) :
    s.sampled.rst = false ∧ rstFree k t = true := by
  obtain ⟨u, hu, hinputs⟩ := stepAlwaysAnswersNext s
  obtain rfl : t = u := next_inj (hstep.symm.trans hu)
  rw [rstFree_succ, Bool.and_eq_true, Bool.not_eq_true'] at hfree
  obtain ⟨hrst, hrest⟩ := hfree
  refine ⟨hrst, ?_⟩
  rw [rstFree] at hrest ⊢
  rw [hinputs]
  exact hrest

/-- The state after an accepting step of FINALIZE outside SPENT (R113). -/
theorem step_of_finalize {s : State} (hcmd : s.acceptedCmd = some .finalize) (hopen : s.phase ≠ .spent) :
    ∃ u, step s = .next u ∧ u.lanes = absorbBlock s.lanes (pad s.buf) ∧ u.buf = Buffer.empty ∧
      u.phase = .absorbing ∧ u.fsm = .permF ∧ u.rnd = 0 ∧ u.err = s.err := by
  obtain ⟨-, -, hexec⟩ := step_of_acceptedCmd hcmd
  exact ⟨_, hexec.trans (Effect.finalizePads (s := s.afterSample) hopen).exec_eq, by simp⟩

/-- Settles O44: after the accepting step the 24 steps of PERM_F show ABSORBING until the last, which ends in SPENT. -/
theorem finalizeIsFollowedByTheDigest : Obligations.FinalizeIsFollowedByTheDigest := by
  intro s hcmd hopen hfree
  obtain ⟨u, hstep, hlanes, hbuf, hphase, hfsm, hrnd, herr⟩ := step_of_finalize hcmd hopen
  obtain ⟨-, hfreeu⟩ := rstFree_of_step hstep hfree
  obtain ⟨hwithin, hend⟩ := twentyFourStepsApplyPermute u (by simp [hfsm]) hrnd hfreeu
  constructor
  · intro k v hk hrun
    cases k with
    | zero => exact decide_eq_false (next_inj hrun ▸ hopen)
    | succ j =>
      rw [run_succ_of_step hstep] at hrun
      obtain ⟨w, hrunw, -, -, hphasew, -⟩ := hwithin ⟨j, hk⟩
      obtain rfl : v = w := next_inj (hrun.symm.trans hrunw)
      simp [State.digestValid, hphasew, hphase]
  · refine ⟨_, (run_succ_of_step hstep 24).trans hend, ?_⟩
    simp [State.digestValid, State.cmdReady, hfsm, hlanes, hbuf, herr]

end Sys2Proof.Machine

/-! PROOFS. A run as its accepted commands (R122, R123, R172): every step keeps the state in which the running
permutation ends, but for the collapsed transition of the command it accepts. -/

namespace Sys2Proof.Machine

/-! ## The inputs to come -/

@[simp] theorem raiseProtocolFault_setInputs (c : ECause) (s : State) (l : List PortInput) :
    raiseProtocolFault c (s.setInputs l) = (raiseProtocolFault c s).setInputs l := by
  unfold raiseProtocolFault
  rw [State.setInputs_err]
  split <;> rfl

@[simp] theorem roundStep_setInputs (r : Fin 24) (s : State) (l : List PortInput) :
    roundStep r (s.setInputs l) = (roundStep r s).setInputs l := by
  by_cases h : r.val = 23
  · rw [roundStep_last r _ h, roundStep_last r s h]
    rfl
  · have hlt : r.val < 23 := by omega
    rw [roundStep_of_lt r _ hlt, roundStep_of_lt r s hlt]
    rfl

/-- No operation reads the inputs to come. -/
theorem Effect.setInputs {i : Instr} {s t : State} (h : Effect s i t) (l : List PortInput) :
    Effect (s.setInputs l) i (t.setInputs l) := by
  cases h with
  | nop => exact .nop
  | updateMisuse b hspent => exact raiseProtocolFault_setInputs _ s l ▸ .updateMisuse b hspent
  | updateBuffers b hopen hroom => exact .updateBuffers (s := s.setInputs l) b hopen hroom
  | updateFills b hopen hfull => exact .updateFills (s := s.setInputs l) b hopen hfull
  | finalizeMisuse hspent => exact raiseProtocolFault_setInputs _ s l ▸ .finalizeMisuse hspent
  | finalizePads hopen => exact .finalizePads (s := s.setInputs l) hopen
  | reset => exact .reset
  | roundA r hr => exact roundStep_setInputs _ s l ▸ .roundA r hr
  | roundF r hr => exact roundStep_setInputs _ s l ▸ .roundF r hr
  | lastRoundF r hr =>
    have hlast := Effect.lastRoundF (s := s.setInputs l) r hr
    rw [roundStep_setInputs] at hlast
    exact hlast

/-! ## Collapsed transitions -/

/-- A round step never makes an idle engine busy. -/
theorem roundStep_fsm_of_idle (r : Fin 24) {s : State} (hidle : s.fsm = .idle) : (roundStep r s).fsm = .idle := by
  by_cases h : r.val = 23
  · exact (roundStep_sequencer_last r s h).1
  · exact (roundStep_sequencer_of_lt r s (by omega)).1.trans hidle

/-- From an idle state an operation leaves the engine idle or at round 0 of the permutation it starts. -/
theorem Effect.idle_or_round_zero {i : Instr} {s t : State} (h : Effect s i t) (hidle : s.fsm = .idle) :
    t.fsm = .idle ∨ t.rnd = 0 := by
  cases h with
  | nop => exact .inl hidle
  | updateMisuse b hspent => exact .inl ((raiseProtocolFault_fsm _ s).trans hidle)
  | updateBuffers b hopen hroom => exact .inl hidle
  | updateFills b hopen hfull => exact .inr (by simp)
  | finalizeMisuse hspent => exact .inl ((raiseProtocolFault_fsm _ s).trans hidle)
  | finalizePads hopen => exact .inr (by simp)
  | reset => exact .inl rfl
  | roundA r hr => exact .inl (roundStep_fsm_of_idle _ hidle)
  | roundF r hr => exact .inl (roundStep_fsm_of_idle _ hidle)
  | lastRoundF r hr => exact .inl (roundStep_fsm_of_idle _ hidle)

/-- From an idle state a collapsed transition leads to the end of the permutation the operation starts (R172). -/
theorem Effect.collapsed_eq {i : Instr} {s t : State} (h : Effect s i t) (hidle : s.fsm = .idle) :
    collapsed i s = .next (drained t) := by
  have hend : finishPermutation t = drained t := by
    obtain hfsm | hzero := h.idle_or_round_zero hidle
    · rw [drained_of_idle hfsm, finishPermutation, hfsm]
    · exact (drained_eq_finishPermutation hzero).symm
  rw [collapsed, h.exec_eq, ← hend]

/-- A command sequence goes on from the state its first transition leads to. -/
theorem collapsedRun_cons_of_collapsed {i : Instr} {s t : State} (h : collapsed i s = .next t) (is : List Instr) :
    collapsedRun (i :: is) s = collapsedRun is t := by
  rw [collapsedRun, h]

/-- A step, from the end of the permutation running before it to the end of the one running after it, is the collapsed
transition of the command it accepts, if any (R123). -/
theorem collapsedRun_acceptedCmd {s t : State} (hrst : s.sampled.rst = false) (hstep : step s = .next t)
    (is : List Instr) :
    collapsedRun (s.acceptedCmd.toList ++ is) ((drained s).setInputs []) =
      collapsedRun is ((drained t).setInputs []) := by
  by_cases hidle : s.fsm = .idle
  · rw [drained_of_idle hidle]
    cases hcmd : s.acceptedCmd with
    | none =>
      obtain rfl := next_inj ((step_of_not_accepting hrst hidle hcmd).symm.trans hstep)
      rw [drained_of_idle (s := s.afterSample) hidle]
      rfl
    | some i =>
      obtain ⟨-, -, hexec⟩ := step_of_acceptedCmd hcmd
      have heff : Effect (s.setInputs []) i (t.setInputs []) :=
        (effect_of_exec (hexec.symm.trans hstep)).setInputs []
      have hcollapsed := heff.collapsed_eq hidle
      rw [drained_setInputs] at hcollapsed
      exact collapsedRun_cons_of_collapsed hcollapsed is
  · obtain rfl := next_inj ((step_of_busy hrst hidle).symm.trans hstep)
    rw [acceptedCmd_of_busy hidle, drained_busyStep (s := s.afterSample) hidle, State.afterSample, drained_setInputs]
    rfl

/-- A run without `rst`, from the end of the permutation running before it to the end of the one running after it, is
its accepted commands (R123, R172). -/
theorem collapsedRun_acceptedRun (k : Nat) {s t : State} (hfree : rstFree k s = true) (hrun : run k s = .next t) :
    collapsedRun (acceptedRun k s) ((drained s).setInputs []) = .next ((drained t).setInputs []) := by
  induction k generalizing s with
  | zero =>
    rw [next_inj hrun]
    rfl
  | succ k ih =>
    obtain ⟨u, hstep, -⟩ := stepAlwaysAnswersNext s
    obtain ⟨hrst, hfreeu⟩ := rstFree_of_step hstep hfree
    rw [acceptedRun_succ_of_step hstep, collapsedRun_acceptedCmd hrst hstep]
    exact ih hfreeu ((run_succ_of_step hstep k).symm.trans hrun)

/-- Settles O49: an idle state is the end of its own permutation. -/
theorem runIsTheCollapsedCommands : Obligations.RunIsTheCollapsedCommands := by
  intro k s t hidles hidlet hfree hrun
  have hall := collapsedRun_acceptedRun k hfree hrun
  rwa [drained_of_idle hidles, drained_of_idle hidlet] at hall

/-! ## NOPs -/

/-- From an idle state NOPs may be left out of a command sequence (R111). -/
theorem collapsedRun_filter_nop (is : List Instr) {s : State} (hidle : s.fsm = .idle) :
    collapsedRun (is.filter (· ≠ .nop)) s = collapsedRun is s := by
  induction is generalizing s with
  | nil => rfl
  | cons i is ih =>
    by_cases hnop : i = .nop
    · subst hnop
      have hstay : collapsed .nop s = .next s := by
        rw [Effect.nop.collapsed_eq hidle, drained_of_idle hidle]
      rw [collapsedRun_cons_of_collapsed hstay, List.filter_cons_of_neg (by simp), ih hidle]
    · rw [List.filter_cons_of_pos (by simpa using hnop), collapsedRun, collapsedRun]
      cases hexec : exec i s with
      | next t =>
        rw [(effect_of_exec hexec).collapsed_eq hidle]
        exact ih (drained_fsm t)
      | fault f => rw [collapsed, hexec]
      | refused r => rw [collapsed, hexec]

/-- Settles O50: both runs end where the same command sequence leads from the same registers. -/
theorem timingAndNopsDoNotMatter : Obligations.TimingAndNopsDoNotMatter := by
  intro k k' s s' t t' hsame hidle hfree hfree' hrun hrun' hidlet hidlet' hcmds
  have hidle' : s'.fsm = .idle := (congrArg State.fsm hsame).symm.trans hidle
  apply next_inj
  calc Host.Outcome.next (t.setInputs [])
    _ = collapsedRun (acceptedRun k s) (s.setInputs []) :=
      (runIsTheCollapsedCommands k s t hidle hidlet hfree hrun).symm
    _ = collapsedRun ((acceptedRun k s).filter (· ≠ .nop)) (s.setInputs []) :=
      (collapsedRun_filter_nop _ (s := s.setInputs []) hidle).symm
    _ = collapsedRun ((acceptedRun k' s').filter (· ≠ .nop)) (s'.setInputs []) := by rw [hcmds, hsame]
    _ = collapsedRun (acceptedRun k' s') (s'.setInputs []) := collapsedRun_filter_nop _ (s := s'.setInputs []) hidle'
    _ = .next (t'.setInputs []) := runIsTheCollapsedCommands k' s' t' hidle' hidlet' hfree' hrun'

/-! ## The digest of a run -/

/-- One more message byte as a collapsed transition. -/
theorem Absorbed.collapsed_update {m : List Byte} {s : State} (h : Absorbed m s) (b : Byte) :
    ∃ t, collapsed (.update b) s = .next t ∧ Absorbed (m ++ [b]) t := by
  obtain ⟨u, hexec, hu⟩ := h.update b
  exact ⟨_, (effect_of_exec hexec).collapsed_eq h.idle, hu⟩

/-- The bytes of a message as collapsed transitions. -/
theorem Absorbed.collapsedRun_updates {m₀ : List Byte} {s : State} (h : Absorbed m₀ s) (m : List Byte)
    (is : List Instr) :
    ∃ t, collapsedRun (m.map .update ++ is) s = collapsedRun is t ∧ Absorbed (m₀ ++ m) t := by
  induction m generalizing m₀ s with
  | nil => exact ⟨s, rfl, by simpa using h⟩
  | cons b m ih =>
    obtain ⟨u, hcollapsed, hu⟩ := h.collapsed_update b
    obtain ⟨t, hrest, ht⟩ := ih hu
    exact ⟨t, (collapsedRun_cons_of_collapsed hcollapsed _).trans hrest, by simpa using ht⟩

/-- From reset the bytes of `m` and FINALIZE lead to SPENT, unmarked, with the lanes of the closed form (R122). -/
theorem collapsedRun_message (m : List Byte) :
    ∃ t, collapsedRun (m.map .update ++ [.finalize]) State.reset = .next t ∧
      t.phase = .spent ∧ t.err = false ∧ t.lanes = spongeLanes m := by
  obtain ⟨s, hbytes, hs⟩ := absorbed_reset.collapsedRun_updates m [.finalize]
  obtain ⟨u, hexec, hu⟩ := hs.finalize
  have hcollapsed := (effect_of_exec hexec).collapsed_eq hs.idle
  exact ⟨_, hbytes.trans (collapsedRun_cons_of_collapsed hcollapsed []), hu⟩

/-- What the digest of a message's end is (R118, R122). -/
theorem digest_of_spongeLanes {m : List Byte} {t : State} (hspent : t.phase = .spent) (herr : t.err = false)
    (hlanes : t.lanes = spongeLanes m) :
    t.claimedDigest = some (keccak256 m) ∧ t.digest = digestOfBytes (keccak256 m) := by
  have hdigest : squeeze t.lanes = keccak256 m := congrArg squeeze hlanes
  rw [digest_of_spent hspent, hdigest]
  simp [State.claimedDigest, State.digestValid, hspent, herr, hdigest]

/-- Settles O51: by the invariants a state that shows a digest is idle, so the run is its commands, and without the NOPs
these are the message. -/
theorem digestIsKeccakOfTheAcceptedBytes : Obligations.DigestIsKeccakOfTheAcceptedBytes := by
  intro k s t m hreset hfree hcmds hrun hvalid
  have hidle : s.fsm = .idle := congrArg State.fsm hreset
  have hinv : Inv s := (hreset ▸ resetStateMeetsTheInvariants : Inv (s.setInputs [])).setInputs s.inputs
  have hinvt : Inv t := run_induction everyStepKeepsTheInvariants hinv hrun
  obtain ⟨hidlet, -⟩ := hinvt.spent_idle (of_decide_eq_true hvalid)
  have hend := runIsTheCollapsedCommands k s t hidle hidlet hfree hrun
  rw [← collapsedRun_filter_nop _ (s := s.setInputs []) hidle, hcmds, hreset] at hend
  obtain ⟨u, hu, hspent, herr, hlanes⟩ := collapsedRun_message m
  obtain rfl : u = t.setInputs [] := next_inj (hu.symm.trans hend)
  exact digest_of_spongeLanes hspent herr hlanes

end Sys2Proof.Machine

/-! PROOFS. The protocol fault (R141 to R144): what its entry writes, which operations raise it, what keeps the mark and
its cause, and the host's duty that avoids it (R168). -/

namespace Sys2Proof.Machine

/-! ## The entry of the fault -/

/-- A first fault writes the mark and its cause (R143). -/
theorem raiseProtocolFault_first (c : ECause) {s : State} (herr : s.err = false) :
    raiseProtocolFault c s = { s with err := true, ecause := c } := by
  rw [raiseProtocolFault, if_neg (by simp [herr])]
  rfl

/-- A fault in a marked state writes nothing (R144). -/
theorem raiseProtocolFault_again (c : ECause) {s : State} (herr : s.err = true) : raiseProtocolFault c s = s :=
  if_pos herr

/-- The engine stays as ready as it was, with the same digest under the same `digest_valid` (R143). -/
theorem raiseProtocolFault_ports (c : ECause) (s : State) :
    (raiseProtocolFault c s).cmdReady = s.cmdReady ∧ (raiseProtocolFault c s).digestValid = s.digestValid ∧
      (raiseProtocolFault c s).digest = s.digest := by
  simp [State.cmdReady, State.digest, State.digestValid]

/-- Settles O22: in SPENT both commands raise, and what raising does depends on the mark alone. -/
theorem misuseEntersTheProtocolFault : Obligations.MisuseEntersTheProtocolFault := by
  intro b s hspent
  have hupdate : exec (.update b) s = .next (raiseProtocolFault .updateInSpent s) :=
    (Effect.updateMisuse b hspent).exec_eq
  have hfinalize : exec .finalize s = .next (raiseProtocolFault .finalizeInSpent s) :=
    (Effect.finalizeMisuse hspent).exec_eq
  have hvalid : s.digestValid = true := decide_eq_true hspent
  rw [hupdate, hfinalize]
  refine ⟨fun herr => ?_, fun herr => ?_, fun t ht => ?_⟩
  · simp only [raiseProtocolFault_first _ herr, and_self]
  · simp only [raiseProtocolFault_again _ herr, and_self]
  · obtain ⟨c, rfl⟩ : ∃ c, raiseProtocolFault c s = t := ht.elim (⟨_, next_inj ·⟩) (⟨_, next_inj ·⟩)
    rw [← hvalid]
    exact raiseProtocolFault_ports c s

/-! ## What raises the fault and what keeps it -/

@[simp] theorem clearEngine_err (s : State) : (clearEngine s).err = false := rfl

/-- Settles O23, effect by effect: only the two misuses write the mark. -/
theorem onlyMisuseRaisesTheFault : Obligations.OnlyMisuseRaisesTheFault := by
  intro i s t herr hexec
  cases effect_of_exec hexec with
  | nop => simp [herr]
  | updateMisuse b hspent => simp [raiseProtocolFault_first _ herr, hspent]
  | updateBuffers b hopen hroom => simp [herr, hopen]
  | updateFills b hopen hfull => simp [herr, hopen]
  | finalizeMisuse hspent => simp [raiseProtocolFault_first _ herr, hspent]
  | finalizePads hopen => simp [herr, hopen]
  | reset => simp
  | roundA r hr => simp [herr]
  | roundF r hr => simp [herr]
  | lastRoundF r hr => simp [herr]

/-- In a marked state every operation but RESET keeps the mark and the first cause (R144). -/
theorem Effect.fault_kept {i : Instr} {s t : State} (h : Effect s i t) (herr : s.err = true) (hi : i ≠ .reset) :
    t.err = s.err ∧ t.ecause = s.ecause := by
  cases h with
  | nop => simp
  | updateMisuse b hspent => simp [raiseProtocolFault_again _ herr]
  | updateBuffers b hopen hroom => simp
  | updateFills b hopen hfull => simp
  | finalizeMisuse hspent => simp [raiseProtocolFault_again _ herr]
  | finalizePads hopen => simp
  | reset => exact absurd rfl hi
  | roundA r hr => simp
  | roundF r hr => simp
  | lastRoundF r hr => simp

/-- A step that neither resets nor accepts a command keeps the mark and its cause. -/
theorem step_fault_kept_of_not_accepting {s t : State} (hstep : step s = .next t) (hrst : s.sampled.rst = false)
    (hnone : s.acceptedCmd = none) : t.err = s.err ∧ t.ecause = s.ecause := by
  obtain ⟨hrst', -⟩ | ⟨-, -, rfl⟩ | ⟨-, -, -, rfl⟩ | ⟨-, -, -, rfl⟩ | ⟨-, -, cw, hcmd, -⟩ | ⟨-, -, -, rfl⟩ :=
    step_cases hstep
  · exact nomatch hrst.symm.trans hrst'
  · simp
  · simp
  · simp
  · exact nomatch hnone.symm.trans hcmd
  · simp

/-- Settles O24: a step without `rst` accepts nothing or runs the command it accepts. -/
theorem firstCauseIsKeptUntilReset : Obligations.FirstCauseIsKeptUntilReset := by
  intro s t herr hstep hrst hreset
  rw [← herr]
  cases hcmd : s.acceptedCmd with
  | none => exact step_fault_kept_of_not_accepting hstep hrst hcmd
  | some i =>
    obtain ⟨-, -, hexec⟩ := step_of_acceptedCmd hcmd
    have heff : Effect s.afterSample i t := effect_of_exec (hexec.symm.trans hstep)
    exact heff.fault_kept herr fun hi => hreset (hi ▸ hcmd)

/-! ## The host's duty -/

/-- A host that keeps its duty has no UPDATE and no FINALIZE accepted in SPENT (R168). -/
theorem not_spent_of_dutiful {s : State} {i : Instr} (hduty : s.dutiful = true) (hcmd : s.acceptedCmd = some i)
    (hi : (∃ b, i = .update b) ∨ i = .finalize) : s.phase ≠ .spent := by
  obtain ⟨b, rfl⟩ | rfl := hi
  · simpa [State.dutiful, hcmd] using hduty
  · simpa [State.dutiful, hcmd] using hduty

/-- A step of a host that keeps its duty does not set the mark (R141, R168). -/
theorem step_err_of_dutiful {s t : State} (herr : s.err = false) (hduty : s.dutiful = true)
    (hstep : step s = .next t) : t.err = false := by
  cases hrst : s.sampled.rst with
  | true =>
    obtain ⟨hreset, -⟩ := stepRunsTheSelectedOperation s
    rw [← next_inj ((hreset hrst).symm.trans hstep)]
    rfl
  | false =>
    cases hcmd : s.acceptedCmd with
    | none => exact (step_fault_kept_of_not_accepting hstep hrst hcmd).1.trans herr
    | some i =>
      obtain ⟨-, -, hexec⟩ := step_of_acceptedCmd hcmd
      obtain ⟨hraised, -, -⟩ := onlyMisuseRaisesTheFault i s.afterSample t herr (hexec.symm.trans hstep)
      rw [← Bool.not_eq_true, hraised]
      exact fun ⟨hspent, hi⟩ => not_spent_of_dutiful hduty hcmd hi hspent

/-- The duty of the next `k + 1` steps is that of the next step and of the `k` after it. -/
theorem dutifulRun_succ_of_step {s t : State} (h : step s = .next t) (k : Nat) :
    dutifulRun (k + 1) s = (s.dutiful && dutifulRun k t) := by
  rw [dutifulRun, h]

/-- A run of `k + 1` steps is free of faults when its first state is and the `k` steps after it are. -/
theorem faultFree_succ_of_step {s t : State} (h : step s = .next t) (k : Nat) :
    faultFree (k + 1) s = (!s.err && faultFree k t) := by
  rw [faultFree, h]

/-- Settles O46, by induction on the number of steps: every step of a dutiful host keeps `err` = 0. -/
theorem dutifulHostSeesNoFault : Obligations.DutifulHostSeesNoFault := by
  intro k
  induction k with
  | zero =>
    intro s herr _
    simp [faultFree, herr]
  | succ k ih =>
    intro s herr hduty
    obtain ⟨t, hstep, -⟩ := stepAlwaysAnswersNext s
    rw [dutifulRun_succ_of_step hstep, Bool.and_eq_true] at hduty
    obtain ⟨hnow, hlater⟩ := hduty
    have hkept : t.err = false := step_err_of_dutiful herr hnow hstep
    rw [faultFree_succ_of_step hstep, herr, ih t hkept hlater]
    rfl

end Sys2Proof.Machine

/-! PROOFS. Hard reset (R160), the digest from SPENT on (R167), the presentation of commands (R165, R166), and the count
of the steps of a message (R172). -/

namespace Sys2Proof.Machine

/-! ## Hard reset -/

/-- Settles O10: the hard reset clears the engine, and the cleared engine is the reset state with the inputs kept. -/
theorem hardResetWritesEveryRegister : Obligations.HardResetWritesEveryRegister := by
  intro s hrst
  obtain ⟨hreset, -⟩ := stepRunsTheSelectedOperation s
  rw [hreset hrst, hardReset, clearEngine_eq]
  rfl

/-! ## The digest from SPENT on -/

/-- In SPENT no command but RESET leaves the phase or writes the lanes (R111, R143, R167). -/
theorem Effect.spent_kept {cw : CmdWord} {s t : State} (h : Effect s (decodeCmd cw) t) (hspent : s.phase = .spent)
    (hreset : decodeCmd cw ≠ .reset) : t.phase = .spent ∧ t.lanes = s.lanes := by
  have hround := decodeCmd_ne_perm cw
  generalize decodeCmd cw = i at h hreset hround
  cases h with
  | nop => exact ⟨hspent, rfl⟩
  | updateMisuse b _ => simp [hspent]
  | updateBuffers b hopen _ => exact absurd hspent hopen
  | updateFills b hopen _ => exact absurd hspent hopen
  | finalizeMisuse _ => simp [hspent]
  | finalizePads hopen => exact absurd hspent hopen
  | reset => exact absurd rfl hreset
  | roundA r _ => exact absurd rfl (hround r).1
  | roundF r _ => exact absurd rfl (hround r).2
  | lastRoundF r _ => exact absurd rfl (hround r).2

/-- In SPENT a step of an idle engine with neither `rst` nor an accepted RESET keeps the phase and the lanes (R167). -/
theorem step_spent_kept {s t : State} (hspent : s.phase = .spent) (hidle : s.fsm = .idle)
    (hrst : s.sampled.rst = false) (hreset : s.acceptedCmd ≠ some .reset) (hstep : step s = .next t) :
    t.phase = .spent ∧ t.lanes = s.lanes := by
  obtain ⟨hrst', -⟩ | ⟨-, hfsm, -⟩ | ⟨-, hfsm, -⟩ | ⟨-, hfsm, -⟩ | ⟨-, -, cw, hcmd, heff⟩ | ⟨-, -, -, rfl⟩ :=
    step_cases hstep
  · exact nomatch hrst.symm.trans hrst'
  · exact nomatch hidle.symm.trans hfsm
  · exact nomatch hidle.symm.trans hfsm
  · exact nomatch hidle.symm.trans hfsm
  · exact heff.spent_kept hspent fun hcw => hreset (hcw ▸ hcmd)
  · exact ⟨hspent, rfl⟩

/-- Along a run an invariant engine in SPENT is idle, so each of its steps keeps the phase and the lanes (R40, R167). -/
theorem run_spent_kept (k : Nat) {s t : State} (hinv : Inv s) (hspent : s.phase = .spent)
    (hfree : rstFree k s = true) (hreset : Instr.reset ∉ acceptedRun k s) (hrun : run k s = .next t) :
    Inv t ∧ t.phase = .spent ∧ t.lanes = s.lanes := by
  induction k generalizing s with
  | zero =>
    obtain rfl := next_inj hrun
    exact ⟨hinv, hspent, rfl⟩
  | succ k ih =>
    obtain ⟨u, hstep, -⟩ := stepAlwaysAnswersNext s
    obtain ⟨hrst, hfreeu⟩ := rstFree_of_step hstep hfree
    rw [run_succ_of_step hstep] at hrun
    rw [acceptedRun_succ_of_step hstep, List.mem_append, not_or, Option.mem_toList] at hreset
    obtain ⟨hnow, hlater⟩ := hreset
    obtain ⟨hidle, -⟩ := hinv.spent_idle hspent
    obtain ⟨hspentu, hlanesu⟩ := step_spent_kept hspent hidle hrst hnow hstep
    rw [← hlanesu]
    exact ih (everyStepKeepsTheInvariants s u hinv hstep) hspentu hfreeu hlater hrun

/-- Settles O31: phase and lanes are kept, and they determine the digest; by the invariants SPENT is ready. -/
theorem digestIsStableUntilReset : Obligations.DigestIsStableUntilReset := by
  refine fun s => ⟨fun hinvalid => digest_of_not_spent (of_decide_eq_false hinvalid), ?_⟩
  intro k t hinv hvalid hfree hreset hrun
  have hspent : s.phase = .spent := of_decide_eq_true hvalid
  obtain ⟨hinvt, hspentt, hlanes⟩ := run_spent_kept k hinv hspent hfree hreset hrun
  obtain ⟨hidlet, -⟩ := hinvt.spent_idle hspentt
  refine ⟨decide_eq_true hspentt, ?_, hlanes, decide_eq_true hidlet⟩
  rw [digest_of_spent hspent, digest_of_spent hspentt, hlanes]

/-! ## Presenting a command -/

/-- An idle engine accepts the command presented to it (R37). -/
theorem acceptedCmd_of_idle_present {s : State} (hidle : s.fsm = .idle) (cw : CmdWord) (l : List PortInput) :
    (s.setInputs (PortInput.present cw :: l)).acceptedCmd = some (decodeCmd cw) := by
  rw [acceptedCmd_of_idle (s := s.setInputs (PortInput.present cw :: l)) rfl hidle]
  exact congrArg (some ∘ decodeCmd) (word_present cw)

/-- The commands accepted in `j + k` steps are those of the first `j` and then those of the `k` after them (R61). -/
theorem acceptedRun_add {j : Nat} {s t : State} (k : Nat) (h : run j s = .next t) :
    acceptedRun (j + k) s = acceptedRun j s ++ acceptedRun k t := by
  induction j generalizing s with
  | zero =>
    rw [Nat.zero_add, next_inj h]
    rfl
  | succ j ih =>
    obtain ⟨u, hstep, -⟩ := stepAlwaysAnswersNext s
    rw [run_succ_of_step hstep] at h
    rw [Nat.succ_add, acceptedRun_succ_of_step hstep, acceptedRun_succ_of_step hstep, ih h, List.append_assoc]

/-- No busy step accepts a command, whatever is presented (R37, R121). -/
theorem acceptedRun_of_le_busySteps (k : Nat) {s : State} (hk : k ≤ s.busySteps) (hfree : rstFree k s = true) :
    acceptedRun k s = [] := by
  induction k generalizing s with
  | zero => rfl
  | succ k ih =>
    obtain ⟨hbusy, -⟩ := busy_of_lt_busySteps (Nat.lt_of_succ_le hk)
    obtain ⟨u, hstep, -⟩ := stepAlwaysAnswersNext s
    obtain ⟨hrst, hfreeu⟩ := rstFree_of_step hstep hfree
    obtain rfl := next_inj ((step_of_busy hrst hbusy).symm.trans hstep)
    have hleft : s.busySteps = (busyStep s.afterSample).busySteps + 1 := busySteps_of_busy (s := s.afterSample) hbusy
    rw [acceptedRun_succ_of_step hstep, acceptedCmd_of_busy hbusy, ih (by omega) hfreeu]
    rfl

/-- A command line takes the busy steps and the accepting one (R165, R172). -/
theorem length_inputs_cmd (cw : CmdWord) (s : State) : (Line.inputs s (.cmd cw)).length = s.busySteps + 1 := by
  simp [Line.inputs]

/-- Settles O47: the busy steps accept nothing and lead to an idle state, which accepts the word still held. -/
theorem heldCommandIsAcceptedOnce : Obligations.HeldCommandIsAcceptedOnce := by
  intro s cw
  rw [length_inputs_cmd, Line.inputs]
  generalize hheld : List.replicate s.busySteps (PortInput.present cw) = held
  have hlen : held.length = s.busySteps := by rw [← hheld, List.length_replicate]
  have hheldFree : ∀ p ∈ held, p.rst = false := by simp [← hheld]
  have hready := run_busySteps_setInputs s hlen hheldFree [PortInput.present cw]
  have hfree : rstFree s.busySteps (s.setInputs (held ++ [PortInput.present cw])) = true := by
    simpa [rstFree, ← hlen] using hheldFree
  have hbusy : acceptedRun s.busySteps (s.setInputs (held ++ [PortInput.present cw])) = [] :=
    acceptedRun_of_le_busySteps s.busySteps (Nat.le_refl s.busySteps) hfree
  obtain ⟨u, hstep, -⟩ := stepAlwaysAnswersNext ((drained s).setInputs [PortInput.present cw])
  rw [acceptedRun_add 1 hready, hbusy, acceptedRun_succ_of_step hstep, acceptedCmd_of_idle_present (drained_fsm s)]
  rfl

/-- Presented to an idle engine with room in the buffer, an UPDATE word is accepted and appends its byte, and the engine
stays idle with the message open (R112, R166). -/
theorem step_of_presented_update {s : State} {b : Byte} {l : List PortInput} (hidle : s.fsm = .idle)
    (hopen : s.phase ≠ .spent) (hroom : s.buf.blen < 135)
    (hinputs : s.inputs = PortInput.present (cmdWordOf 0b01#2 b) :: l) :
    s.acceptedCmd = some (.update b) ∧
      ∃ u, step s = .next u ∧ u.fsm = .idle ∧ u.phase ≠ .spent ∧ u.buf.bytes = s.buf.bytes ++ [b] ∧
        u.lanes = s.lanes ∧ u.inputs = l := by
  have hself : s.setInputs (PortInput.present (cmdWordOf 0b01#2 b) :: l) = s := hinputs ▸ State.setInputs_self s
  have hcmd := acceptedCmd_of_idle_present hidle (cmdWordOf 0b01#2 b) l
  have hstep := step_of_idle_present hidle (cmdWordOf 0b01#2 b) l
  rw [hself, decodeCmd_cmdWordOf_update] at hcmd hstep
  have heff := Effect.updateBuffers (s := s.setInputs l) b hopen hroom
  exact ⟨hcmd, _, hstep.trans heff.exec_eq, hidle, by simp, rfl, rfl, rfl⟩

/-- Settles O48, by induction on the number of presentations: each is one accepted UPDATE, and the next finds an idle
engine with room for one byte less. -/
theorem wordLeftValidIsExecutedEachStep : Obligations.WordLeftValidIsExecutedEachStep := by
  intro s b k hidle hopen hroom hinputs
  induction k generalizing s with
  | zero => exact ⟨rfl, s, rfl, by simp, rfl⟩
  | succ k ih =>
    obtain ⟨hcmd, u, hstep, hidleu, hopenu, hbytesu, hlanesu, hinputsu⟩ :=
      step_of_presented_update hidle hopen (by omega) (hinputs.trans List.replicate_succ)
    have hblenu : u.buf.blen = s.buf.blen + 1 := by simp [Buffer.blen, hbytesu]
    obtain ⟨hrest, t, hrun, hbytes, hlanes⟩ := ih u hidleu hopenu (by omega) hinputsu
    refine ⟨?_, t, (run_succ_of_step hstep k).trans hrun, ?_, hlanes.trans hlanesu⟩
    · rw [acceptedRun_succ_of_step hstep, hcmd, hrest]
      rfl
    · rw [hbytes, hbytesu, List.append_assoc]
      rfl

/-! ## Counting steps -/

/-- The steps of a stream are those of its first line and those of the rest from where that line leads. -/
theorem scriptSteps_cons_of_runLine {l : Line} {s t : State} (h : runLine l s = .next t) (ls : List Line) :
    scriptSteps (l :: ls) s = (l.inputs s).length + scriptSteps ls t := by
  rw [scriptSteps, h]

/-- The steps of two streams in sequence add up. -/
theorem scriptSteps_append {ls : List Line} {s t : State} (h : runScript ls s = .next t) (ls' : List Line) :
    scriptSteps (ls ++ ls') s = scriptSteps ls s + scriptSteps ls' t := by
  induction ls generalizing s with
  | nil =>
    rw [List.nil_append, next_inj h]
    exact (Nat.zero_add _).symm
  | cons l ls ih =>
    rw [runScript] at h
    cases hline : runLine l s with
    | next u =>
      rw [hline] at h
      rw [List.cons_append, scriptSteps_cons_of_runLine hline, scriptSteps_cons_of_runLine hline, ih h, Nat.add_assoc]
    | fault f => rw [hline] at h; cases h
    | refused r => rw [hline] at h; cases h

/-- `.wait` takes the busy steps (R79). -/
theorem length_inputs_wait (s : State) : (Line.inputs s .wait).length = s.busySteps :=
  List.length_replicate

/-- A block and its permutation leave 24 busy steps (R121). -/
theorem busySteps_absorbAndStart (block : Block) {f : Fsm} (hf : f ≠ .idle) (s : State) :
    (absorbAndStart block f s).busySteps = 24 := by
  simp [State.busySteps, absorbAndStart, hf]

/-- One more byte starts a permutation exactly when it completes a block of the message (R112, R172). -/
theorem Absorbed.busySteps_of_update {m : List Byte} {s t : State} {b : Byte} (h : Absorbed m s)
    (hexec : exec (.update b) s = .next t) :
    24 * (m.length / 136) + t.busySteps = 24 * ((m ++ [b]).length / 136) := by
  have hblen := h.blen
  have hlength : (m ++ [b]).length = m.length + 1 := List.length_append
  obtain ⟨hspent, -⟩ | ⟨-, hroom, rfl⟩ | ⟨-, hfull, rfl⟩ := execUpdate_cases hexec
  · exact absurd hspent h.isOpen
  · have hready : ((s.setPhase .absorbing).setBuf (s.buf.push b hroom)).busySteps = 0 :=
      (busySteps_eq_zero_iff _).mpr h.idle
    omega
  · rw [busySteps_absorbAndStart _ (by decide)]
    omega

/-- FINALIZE leaves the 24 busy steps of PERM_F (R113, R121). -/
theorem Absorbed.busySteps_of_finalize {m : List Byte} {s t : State} (h : Absorbed m s)
    (hexec : exec .finalize s = .next t) : t.busySteps = 24 := by
  obtain ⟨hspent, -⟩ | ⟨-, rfl⟩ := execFinalize_cases hexec
  · exact absurd hspent h.isOpen
  · exact busySteps_absorbAndStart _ (by decide) _

/-- `UPDATE_BYTES m` takes a step for each byte and 24 for each block it completes, where the busy steps left at its
start count as part of it and those left at its end do not. -/
theorem scriptSteps_updateBytes (m : List Byte) {m₀ : List Byte} {s t : State} (h : Absorbed m₀ (drained s))
    (hrun : runScript (updateBytes m) s = .next t) :
    scriptSteps (updateBytes m) s + t.busySteps + 24 * (m₀.length / 136) =
      s.busySteps + m.length + 24 * ((m₀ ++ m).length / 136) := by
  induction m generalizing m₀ s with
  | nil =>
    rw [List.append_nil, next_inj hrun, updateBytes, List.map_nil, scriptSteps, List.length_nil]
    omega
  | cons b m ih =>
    obtain ⟨u, hexec, hu⟩ := (h.setInputs []).update b
    have hline : runLine (.cmd (cmdWordOf 0b01#2 b)) s = .next u := by
      rw [runLine_cmd, decodeCmd_cmdWordOf_update, hexec]
    have hrest := ih hu ((runScript_cons_of_runLine hline (updateBytes m)).symm.trans hrun)
    have hbusy := (h.setInputs []).busySteps_of_update hexec
    have hcons : scriptSteps (updateBytes (b :: m)) s = s.busySteps + 1 + scriptSteps (updateBytes m) u :=
      (scriptSteps_cons_of_runLine hline (updateBytes m)).trans (by rw [length_inputs_cmd])
    rw [List.append_assoc, List.singleton_append] at hrest
    rw [hcons, List.length_cons]
    omega

/-- `FINALIZE` and `.wait` take the busy steps left, the accepting step, and the 24 of PERM_F (R172). -/
theorem scriptSteps_finalizeLines {m : List Byte} {s : State} (h : Absorbed m (drained s)) :
    scriptSteps finalizeLines s = s.busySteps + 25 := by
  obtain ⟨u, hexec, -⟩ := (h.setInputs []).finalize
  have hfinalize : decodeCmd 0x200 = .finalize := decodeCmd_cmdWordOf_finalize 0
  have hline : runLine (.cmd 0x200) s = .next u := by rw [runLine_cmd, hfinalize, hexec]
  rw [finalizeLines, scriptSteps_cons_of_runLine hline, scriptSteps_cons_of_runLine (runLine_wait u),
    length_inputs_cmd, length_inputs_wait, (h.setInputs []).busySteps_of_finalize hexec, scriptSteps]

/-- Settles O54: the steps of the bytes and those of FINALIZE, between which the busy steps of the last block cancel. -/
theorem messageTakesTheCountedSteps : Obligations.MessageTakesTheCountedSteps := by
  intro m
  have hreset : Absorbed [] (drained State.reset) := drained_of_idle (s := State.reset) rfl ▸ absorbed_reset
  have hready : State.reset.busySteps = 0 := rfl
  obtain ⟨t, hbytes, ht⟩ := runScript_updateBytes m hreset
  have hcount := scriptSteps_updateBytes m hreset hbytes
  rw [hready, List.nil_append, List.length_nil] at hcount
  rw [messageLines, scriptSteps_append hbytes, scriptSteps_finalizeLines ht]
  omega

end Sys2Proof.Machine

/-! PROOFS. The word placed for the next step (log 2, log 6): a command on the port or a sequencer word in the registers
is the operation that step runs (R71, R75, R110); a round index without a rule stops by name (U7, log 4). -/

namespace Sys2Proof.Machine

/-! ## The words of the table -/

/-- The table decoder reads `i` from a number exactly when that number is a word and the word decodes as `i`. -/
theorem decodeTableWord_eq_some_iff {nbits w : Nat} {i : Instr} :
    decodeTableWord nbits w = some i ↔ ∃ p, wordOfNumber nbits w = .ok p ∧ decode p = .ok i := by
  unfold decodeTableWord
  cases wordOfNumber nbits w with
  | error e => simp
  | ok p => cases hdecode : decode p <;> simp [hdecode]

/-- A sequencer word is its two fields (R75). -/
theorem seqWordOf_seqFsm_seqRnd (sw : SeqWord) : seqWordOf (seqFsm sw) (seqRnd sw) = sw :=
  (BitVec.extractLsb'_append_extractLsb'_eq_extractLsb' (start₁ := 0) rfl).trans BitVec.extractLsb'_eq_self

/-- The five bits of a legal round index name that round (R30). -/
theorem roundBits_of_toNat {r : BitVec 5} (hr : r.toNat < 24) : roundBits ⟨r.toNat, hr⟩ = r :=
  BitVec.eq_of_toNat_eq (roundBits_toNat _)

/-- A sequencer word whose fields are those of a sequencer state is the word of that state (R75). -/
theorem seqWord_of_fields {sw : SeqWord} {f : Fsm} (hf : seqFsm sw = f.bits) (hr : (seqRnd sw).toNat < 24) :
    seqWord f ⟨(seqRnd sw).toNat, hr⟩ = sw := by
  rw [seqWord, roundBits_of_toNat, ← hf, seqWordOf_seqFsm_seqRnd]

/-- A sequencer word that selects an operation is the word of a running permutation (R29, R30, R75). -/
theorem exists_seqWord_of_decodeSeq {sw : SeqWord} {i : Instr} (h : decodeSeq sw = .ok i) :
    ∃ f r, f ≠ .idle ∧ seqWord f r = sw := by
  rw [← seqWordOf_seqFsm_seqRnd sw] at h
  obtain ⟨hA | hF, hr⟩ := legal_of_decodeSeq_seqWordOf h
  · exact ⟨.permA, _, by decide, seqWord_of_fields hA (Nat.lt_succ_of_le hr)⟩
  · exact ⟨.permF, _, by decide, seqWord_of_fields hF (Nat.lt_succ_of_le hr)⟩

/-! ## The placed word -/

@[simp] theorem ofBits_bits (f : Fsm) : Fsm.ofBits f.bits = some f := by
  cases f <;> rfl

/-- Placing the word of a sequencer state writes that state and takes `rst` from the next step (R75; log 2). -/
theorem placeSeqWord_seqWord (s : State) (f : Fsm) (r : Fin 24) :
    s.placeSeqWord (seqWord f r) = (s.setSequencer f r).setInputs (withoutReset s.inputs) := by
  simp [State.placeSeqWord, seqWord]

/-- Without its first `rst`, a trace presents none in the next step, also where it has ended (log 1). -/
theorem sampled_withoutReset (s : State) (l : List PortInput) :
    (s.setInputs (withoutReset l)).sampled.rst = false := by
  cases l <;> rfl

/-- A busy step without `rst` runs the operation the sequencer word selects (R75, R110). -/
theorem step_of_decodeSeq {s : State} {i : Instr} (hrst : s.sampled.rst = false) (hbusy : s.fsm ≠ .idle)
    (h : decodeSeq (seqWord s.fsm s.rnd) = .ok i) : step s = exec i s.afterSample := by
  simp [step, engineStep, selected, hrst, hbusy, h]

/-- A presented command word is the next step's operation (R37, R110). -/
theorem step_presentWord (s : State) (cw : CmdWord) :
    step (s.presentWord cw) = exec (decodeCmd cw) (s.presentWord cw).afterSample :=
  step_of_idle_present (s := s.setSequencer .idle s.rnd) rfl cw s.inputs.tail

/-- A placed sequencer word that selects an operation is the next step's operation (R75, R110). -/
theorem step_placeSeqWord {sw : SeqWord} {i : Instr} (h : decodeSeq sw = .ok i) (s : State) :
    step (s.placeSeqWord sw) = exec i (s.placeSeqWord sw).afterSample := by
  obtain ⟨f, r, hbusy, rfl⟩ := exists_seqWord_of_decodeSeq h
  rw [placeSeqWord_seqWord]
  exact step_of_decodeSeq (sampled_withoutReset _ _) hbusy h

/-- Settles O6, by the format of the word: the port of an idle engine, or the sequencer of a running permutation. -/
theorem placedWordIsRunByTheNextStep : Obligations.PlacedWordIsRunByTheNextStep := by
  intro s nbits w i htable
  obtain ⟨p, hword, hdecode⟩ := decodeTableWord_eq_some_iff.mp htable
  cases p with
  | cmd cw =>
    have hplaced : s.withFetchWord nbits w = s.presentWord cw := by rw [State.withFetchWord, hword]
    obtain rfl : decodeCmd cw = i := Except.ok.inj hdecode
    rw [hplaced, step_presentWord]
  | seq sw =>
    have hplaced : s.withFetchWord nbits w = s.placeSeqWord sw := by rw [State.withFetchWord, hword]
    rw [hplaced, step_placeSeqWord hdecode]

/-! ## Round indices without a rule -/

/-- Settles O21: neither round step has a round of that index to run. -/
theorem unreachableRoundIndexStops : Obligations.UnreachableRoundIndexStops := by
  intro r s hr
  have hnone : ¬r.toNat < 24 := hr.not_gt
  rw [exec_permA, execPermA, dif_neg hnone, exec_permF, execPermF, dif_neg hnone]
  exact ⟨rfl, rfl⟩

end Sys2Proof.Machine
